-- ==== Sys2Proof/Word.lean ====
section
/-! DEFINITION. The unsigned values the block moves: bytes, 32-bit fields, the 64-bit timer (00_scope R11, R12). -/

namespace Sys2Proof

/-- A byte: 8 bits, unsigned, bit 7 the most significant (R11). -/
abbrev Byte := BitVec 8

/-- A 32-bit field: identifiers, timestamps, baud (R12, R28). -/
abbrev Word32 := BitVec 32

/-- The width of `TIMER` (R27). -/
abbrev Word64 := BitVec 64

end Sys2Proof
end

