-- ==== Sys2Proof/Config.lean ====
section
/-! DEFINITION. The parameters of the block (00_scope R9, R10), fixed before reset, and the free values of the model.
An `opaque` constant here has no value a proof can see: what holds of the model holds whatever it is. -/

namespace Sys2Proof

/-- An adapter connection: A0 (primary) or A1 (secondary) (R14, C1). -/
inductive Conn where
  | a0
  | a1
deriving DecidableEq, Repr, Inhabited

/-- `NUM_BUSES`: 1 or 2 adapter connections (R9, R32). -/
inductive NumBuses where
  | one
  | two
deriving DecidableEq, Repr, Inhabited

/-- `UNROUTABLE_POLICY` (R9, R224). -/
inductive UnroutablePolicy where
  | fault
  | drop
deriving DecidableEq, Repr, Inhabited

/-- `RESERVED_CMD_POLICY` (R9, R140). -/
inductive ReservedPolicy where
  | fault
  | ignore
deriving DecidableEq, Repr, Inhabited

/-- `ROUTE_MAP`: for each 2-bit bus index, the connection a client frame goes to (R9, R32, R223). -/
structure RouteMap where
  bus0 : Conn
  bus1 : Conn
  bus2 : Conn
  bus3 : Conn
deriving DecidableEq, Repr, Inhabited

/-- `ROUTE_AS_WRITTEN(b) = A1` for every b (R10). -/
def RouteMap.asWritten : RouteMap := ⟨.a1, .a1, .a1, .a1⟩

/-- The illustrative map of R10 and 95_test_vectors: 0 to A0, the others to A1. -/
def RouteMap.illustrative : RouteMap := ⟨.a0, .a1, .a1, .a1⟩

/-- The configuration registers of 10_state R32. -/
structure Params where
  numBuses         : NumBuses
  baud             : Word32
  devInfo          : Vector Byte 7
  routeMap         : RouteMap
  unroutablePolicy : UnroutablePolicy
  reservedPolicy   : ReservedPolicy
deriving DecidableEq, Repr

namespace Config

/-- `NUM_BUSES` of this hardware: an argument (R9, D17). A free value; DESIGN CHOICE, log entry 3. -/
opaque numBuses : NumBuses

/-- `ROUTE_MAP` of this hardware: OPEN (R9, R223, D5). A free value; DESIGN CHOICE, log entry 3. -/
opaque routeMap : RouteMap

/-- `UNROUTABLE_POLICY` of this hardware: OPEN (R9, R224, D6). A free value; DESIGN CHOICE, log entry 3. -/
opaque unroutablePolicy : UnroutablePolicy

/-- `RESERVED_CMD_POLICY` of this hardware: OPEN (R9, R140, D7). A free value; DESIGN CHOICE, log entry 3. -/
opaque reservedPolicy : ReservedPolicy

/-- The choice among several ready ports where no turn of the agenda names one (R220, D19): a free value for each
count of `State.draws`. DESIGN CHOICE, log entry 2. -/
opaque freePick : Nat → Nat

/-- `BAUD` = 500000 (R9, D16). UNVERIFIED literal, log entry 4. -/
def baud : Word32 := 500000

/-- `DEVINFO` = 07 6a 02 20 00 00 00 (R9). UNVERIFIED literal, log entry 4. -/
def devInfo : Vector Byte 7 := #v[0x07, 0x6A, 0x02, 0x20, 0x00, 0x00, 0x00]

/-- The parameter values that reset loads (R32, R280). -/
def params : Params where
  numBuses := numBuses
  baud := baud
  devInfo := devInfo
  routeMap := routeMap
  unroutablePolicy := unroutablePolicy
  reservedPolicy := reservedPolicy

end Config

end Sys2Proof
end

