-- ==== Sys2Proof/Syntax.lean ====
section
/-! DEFINITION. The instructions of the block: one constructor for each row of spec/opcode_table.json, that is, for each
kind of completed input transaction (30_encoding R88). Bits that the block ignores on input (R83) are operand fields too, so
that an instruction is its bytes and no bit is dropped; no meaning reads them. -/

namespace Sys2Proof

/-- `MODE`, the handshake mode (R24). It stands here because the class of the byte 0xE7 depends on it (R70). -/
inductive Mode where
  | init
  | binary
  | command
deriving DecidableEq, Repr

/-- The encoding of `MODE` in 2 bits (R24). -/
def Mode.code : Mode → BitVec 2
  | .init => 0b00
  | .binary => 0b01
  | .command => 0b10

/-- The operands of BuildCanFrame and of the unknown identifiers: header bytes 0 to 5 and the payload (R73 to R76). -/
structure BuildOperands where
  /-- header bytes 0 to 3, little-endian (R74) -/
  raw    : Word32
  /-- header byte 4, bits 7 to 2: ignored (R75) -/
  busIgn : BitVec 6
  /-- header byte 4, bits 1 to 0: the bus index (R75) -/
  bus    : BitVec 2
  /-- header byte 5, bits 7 to 4: ignored (R76) -/
  lenIgn : BitVec 4
  /-- header byte 5, bits 3 to 0: the length code (R76) -/
  len    : BitVec 4
  /-- the payload bytes d[0], d[1], … (R73) -/
  data   : List Byte
deriving DecidableEq, Repr

/-- The fields of a 13-byte adapter frame but for byte 0 bit 6, which the constructor of `Instr` says (R79 to R82). -/
structure AdapterOperands where
  /-- byte 0 bit 7 (R80) -/
  ext     : Bool
  /-- byte 0 bits 5 to 4: ignored (R80) -/
  ign     : BitVec 2
  /-- byte 0 bits 3 to 0 (R80) -/
  dlc     : BitVec 4
  /-- bytes 1 to 4, big-endian (R81) -/
  id      : Word32
  /-- bytes 5 to 12 (R82) -/
  payload : List Byte
deriving DecidableEq, Repr

/-- One constructor for each row of spec/opcode_table.json. -/
inductive Instr where
  | hs
  | cmdBuild (ops : BuildOperands)
  | cmdTimesync
  | cmdCanparams
  | cmdDevinfo
  | cmdKeepalive
  | cmdNumbuses
  | cmdExtbuses
  | rsvd02
  | rsvd03
  | rsvd04
  | rsvd05
  | rsvd08
  | rsvd0A
  | rsvd0B
  | rsvd0E
  | rsvd14
  | rsvd15
  | rsvd16
  | cmdUnknown0F13 (cid : Byte) (ops : BuildOperands)
  | cmdUnknown17FF (cid : Byte) (ops : BuildOperands)
  | stray (b : Byte)
  | adpData (c : Conn) (ops : AdapterOperands)
  | adpRemote (c : Conn) (ops : AdapterOperands)
deriving DecidableEq, Repr

/-- The byte stream an instruction comes from: the client port, with the `MODE` in which the byte 0xE7 is classified
(R70), or the port of an adapter connection (R88). -/
inductive Stream where
  | client (m : Mode)
  | adapter (c : Conn)
deriving DecidableEq, Repr

end Sys2Proof
end

