-- ==== Sys2Proof/Machine/Operands.lean ====
section
/-! DEFINITION. Byte order and operand fields: how multi-byte fields are read and written, and every operand field of the two
protocols (00_scope R12, 20_memory R54, 30_encoding R74 to R76, R80 to R82). -/

namespace Sys2Proof

/-- `le32(b0, b1, b2, b3) = b0 | b1 << 8 | b2 << 16 | b3 << 24` (R12). -/
def le32 (b0 b1 b2 b3 : Byte) : Word32 :=
  b0.setWidth 32 ||| b1.setWidth 32 <<< 8 ||| b2.setWidth 32 <<< 16 ||| b3.setWidth 32 <<< 24

/-- `be32(b0, b1, b2, b3) = b0 << 24 | b1 << 16 | b2 << 8 | b3` (R12). -/
def be32 (b0 b1 b2 b3 : Byte) : Word32 :=
  b0.setWidth 32 <<< 24 ||| b1.setWidth 32 <<< 16 ||| b2.setWidth 32 <<< 8 ||| b3.setWidth 32

/-- `LE4(v)`: least significant byte first (R12). -/
def le4 (v : Word32) : List Byte :=
  [v.extractLsb' 0 8, v.extractLsb' 8 8, v.extractLsb' 16 8, v.extractLsb' 24 8]

/-- `BE4(v)`: most significant byte first (R12). -/
def be4 (v : Word32) : List Byte :=
  [v.extractLsb' 24 8, v.extractLsb' 16 8, v.extractLsb' 8 8, v.extractLsb' 0 8]

/-- `zeros(n)`: n bytes of 0x00 (R12). -/
def zeros (n : Nat) : List Byte := List.replicate n 0

/-- The payload length `n = min(h[5] & 0xF, 8)` of a BuildCanFrame from its length code (R76). -/
def payloadLenOfCode (len : BitVec 4) : Fin 9 := ⟨min len.toNat 8, by omega⟩

/-- The length code of header byte 5: bits 3 to 0 (R76). -/
def lengthCode (h5 : Byte) : BitVec 4 := h5.extractLsb' 0 4

/-- The payload length that header byte 5 asks for (R76). -/
def payloadLen (h5 : Byte) : Fin 9 := payloadLenOfCode (lengthCode h5)

/-- The operands of a BuildCanFrame from its header bytes and payload (R73 to R76). -/
def buildOperands (h0 h1 h2 h3 h4 h5 : Byte) (data : List Byte) : BuildOperands where
  raw := le32 h0 h1 h2 h3
  busIgn := h4.extractLsb' 2 6
  bus := h4.extractLsb' 0 2
  lenIgn := h5.extractLsb' 4 4
  len := lengthCode h5
  data := data

/-- Header byte 4: bits 7 to 2 ignored, bits 1 to 0 the bus index (R75). -/
def busByte (ops : BuildOperands) : Byte := ops.busIgn ++ ops.bus

/-- Header byte 5: bits 7 to 4 ignored, bits 3 to 0 the length code (R76). -/
def lenByte (ops : BuildOperands) : Byte := ops.lenIgn ++ ops.len

/-- The remote-frame flag of adapter byte 0: bit 6 (R80). -/
def rtrBit (b0 : Byte) : Bool := b0.getLsbD 6

/-- The fields of an adapter frame but for its remote-frame flag (R80 to R82). -/
def adapterOperands (b0 b1 b2 b3 b4 : Byte) (payload : List Byte) : AdapterOperands where
  ext := b0.getLsbD 7
  ign := b0.extractLsb' 4 2
  dlc := b0.extractLsb' 0 4
  id := be32 b1 b2 b3 b4
  payload := payload

/-- Adapter byte 0 of given fields (R80). -/
def adapterByte0 (rtr : Bool) (ops : AdapterOperands) : Byte :=
  BitVec.ofBool ops.ext ++ BitVec.ofBool rtr ++ ops.ign ++ ops.dlc

end Sys2Proof
end

