-- ==== Sys2Proof/Machine/FrameModel.lean ====
section
/-! DEFINITION. The frame model (40_frame_model.md): frames, their two constructors, accessors and equality. A frame is
transient and no part of State (10_state R28). -/

namespace Sys2Proof.Machine

/-- A frame value (R13, R28). -/
inductive Frame where
  | data (bus : BitVec 2) (id : Word32) (ext : Bool) (data : List Byte)
  | remote (bus : BitVec 2) (id : Word32) (ext : Bool) (dlc : BitVec 4)
deriving DecidableEq, Repr

/-- Why a constructor makes no frame (R13). -/
inductive FrameError where
  | idTooLong
  | dataTooLong
deriving DecidableEq, Repr

/-- The largest identifier of a frame: 0x7FF standard, 0x1FFFFFFF extended (R101). -/
def idMask (ext : Bool) : Word32 := if ext then 0x1FFFFFFF else 0x7FF

/-- `newData` (R101): the identifier check comes first (R103). -/
def newData (bus : BitVec 2) (id : Word32) (ext : Bool) (data : List Byte) : Except FrameError Frame :=
  if idMask ext < id then .error .idTooLong
  else if 8 < data.length then .error .dataTooLong
  else .ok (.data bus id ext data)

/-- `newRemote` (R102): the identifier check comes first (R103). -/
def newRemote (bus : BitVec 2) (id : Word32) (ext : Bool) (dlc : BitVec 4) : Except FrameError Frame :=
  if idMask ext < id then .error .idTooLong
  else if 8 < dlc then .error .dataTooLong
  else .ok (.remote bus id ext dlc)

/-- The accessors of R104. -/
def Frame.bus : Frame → BitVec 2
  | .data b _ _ _ => b
  | .remote b _ _ _ => b

def Frame.id : Frame → Word32
  | .data _ i _ _ => i
  | .remote _ i _ _ => i

def Frame.ext : Frame → Bool
  | .data _ _ e _ => e
  | .remote _ _ e _ => e

def Frame.dlc : Frame → Nat
  | .data _ _ _ d => d.length
  | .remote _ _ _ k => k.toNat

def Frame.payload : Frame → Option (List Byte)
  | .data _ _ _ d => some d
  | .remote _ _ _ _ => none

/-- The frame carried on another bus: what R106 leaves out of the comparison. -/
def Frame.onBus (f : Frame) (b : BitVec 2) : Frame :=
  match f with
  | .data _ i e d => .data b i e d
  | .remote _ i e k => .remote b i e k

/-- Equality excluding bus (R106). -/
def Frame.eqExclBus (f g : Frame) : Bool := f.onBus 0 == g.onBus 0

/-- The invariants the constructors check (R100 to R102). -/
def Frame.valid (f : Frame) : Bool := f.id ≤ idMask f.ext && f.dlc ≤ 8

end Sys2Proof.Machine
end

