-- ==== Sys2Proof/Machine/Flags.lean ====
section
/-! DEFINITION. The block has no condition codes (10_state R29). Its one-bit values are the extended flag and the variant of a
frame; this file computes them, and the identifier that goes with the flag (30_encoding R74, R80). -/

namespace Sys2Proof.Machine

/-- The extended flag of a BuildCanFrame: `raw > 0x7FF`, unsigned (R74). -/
def extOfRaw (raw : Word32) : Bool := decide (0x7FF#32 < raw)

/-- The identifier of a BuildCanFrame: bit 31 cleared when extended (R74). -/
def idOfRaw (raw : Word32) : Word32 := if extOfRaw raw then raw &&& 0x7FFFFFFF#32 else raw

/-- A frame's extended flag as a 32-bit value in bit 31 (R172). -/
def extBit31 (ext : Bool) : Word32 := (BitVec.ofBool ext).setWidth 32 <<< 31

/-- A frame's extended flag in bit 7 of adapter byte 0 (R80). -/
def extBit7 (ext : Bool) : Byte := (BitVec.ofBool ext).setWidth 8 <<< 7

/-- A frame's variant in bit 6 of adapter byte 0: 1 for Remote, 0 for Data (R80). -/
def rtrBit6 (f : Frame) : Byte :=
  match f with
  | .data _ _ _ _ => 0#8 <<< 6
  | .remote _ _ _ _ => 1#8 <<< 6

end Sys2Proof.Machine
end

