-- ==== Sys2Proof/WellFormed.lean ====
section
/-! DEFINITION. Which terms of `Instr` are transactions some bytes can carry, and on which stream. -/

namespace Sys2Proof

/-- A BuildCanFrame carries exactly `min(len, 8)` payload bytes (R76). -/
def BuildOperands.wf (ops : BuildOperands) : Bool := ops.data.length == (payloadLenOfCode ops.len).val

/-- An adapter frame carries exactly 8 payload bytes (R79). -/
def AdapterOperands.wf (ops : AdapterOperands) : Bool := ops.payload.length == 8

/-- The identifiers 0x0F to 0x13 (R72, R128). -/
def isUnknown0F13 (cid : Byte) : Bool := 0x0F#8 ≤ cid && cid ≤ 0x13#8

/-- The identifiers 0x17 to 0xFF (R72, R128). -/
def isUnknown17FF (cid : Byte) : Bool := 0x17#8 ≤ cid

/-- The instruction is one that some bytes carry. -/
def Instr.wf : Instr → Bool
  | .hs => true
  | .cmdBuild ops => ops.wf
  | .cmdTimesync => true
  | .cmdCanparams => true
  | .cmdDevinfo => true
  | .cmdKeepalive => true
  | .cmdNumbuses => true
  | .cmdExtbuses => true
  | .rsvd02 => true
  | .rsvd03 => true
  | .rsvd04 => true
  | .rsvd05 => true
  | .rsvd08 => true
  | .rsvd0A => true
  | .rsvd0B => true
  | .rsvd0E => true
  | .rsvd14 => true
  | .rsvd15 => true
  | .rsvd16 => true
  | .cmdUnknown0F13 cid ops => isUnknown0F13 cid && ops.wf
  | .cmdUnknown17FF cid ops => isUnknown17FF cid && ops.wf
  | .stray b => b != 0xF1#8
  | .adpData _ ops => ops.wf
  | .adpRemote _ ops => ops.wf

/-- The stream is the client port's. -/
def Stream.isClient : Stream → Bool
  | .client _ => true
  | .adapter _ => false

/-- The stream can carry the instruction: the handshake needs `MODE = INIT`, a stray 0xE7 any other mode (R70), an adapter
row its own connection (R88). -/
def Stream.admits (src : Stream) (i : Instr) : Bool :=
  match i with
  | .hs => src == .client .init
  | .stray b => src.isClient && !(b == 0xE7#8 && src == .client .init)
  | .adpData c _ => src == .adapter c
  | .adpRemote c _ => src == .adapter c
  | .cmdBuild _ => src.isClient
  | .cmdTimesync => src.isClient
  | .cmdCanparams => src.isClient
  | .cmdDevinfo => src.isClient
  | .cmdKeepalive => src.isClient
  | .cmdNumbuses => src.isClient
  | .cmdExtbuses => src.isClient
  | .rsvd02 => src.isClient
  | .rsvd03 => src.isClient
  | .rsvd04 => src.isClient
  | .rsvd05 => src.isClient
  | .rsvd08 => src.isClient
  | .rsvd0A => src.isClient
  | .rsvd0B => src.isClient
  | .rsvd0E => src.isClient
  | .rsvd14 => src.isClient
  | .rsvd15 => src.isClient
  | .rsvd16 => src.isClient
  | .cmdUnknown0F13 _ _ => src.isClient
  | .cmdUnknown17FF _ _ => src.isClient

end Sys2Proof
end

