-- ==== Sys2Proof/Decode.lean ====
section
/-! DEFINITION. The decoder, total on any bytes of any stream, then the encoder, written from the same tables of
30_encoding (R70 to R82, R88). A byte list that ends inside a transaction is rejected by name; no complete transaction is
rejected (R84). -/

namespace Sys2Proof

/-- Why a byte list holds no complete transaction at its head. -/
inductive DecodeError where
  /-- no byte at all -/
  | empty
  /-- 0xF1 and nothing after it (R71) -/
  | noIdentifier
  /-- fewer than six header bytes (R73) -/
  | shortHeader
  /-- fewer payload bytes than header byte 5 asks for (R76) -/
  | shortPayload
  /-- fewer than 13 bytes of an adapter frame (R79) -/
  | shortFrame
deriving DecidableEq, Repr

/-- The identifiers that take no operands, with the rows they stand for (R72). -/
def commandTable : List (Byte × Instr) :=
  [(0x01, .cmdTimesync), (0x02, .rsvd02), (0x03, .rsvd03), (0x04, .rsvd04), (0x05, .rsvd05), (0x06, .cmdCanparams),
    (0x07, .cmdDevinfo), (0x08, .rsvd08), (0x09, .cmdKeepalive)] ++
  [(0x0A, .rsvd0A), (0x0B, .rsvd0B), (0x0C, .cmdNumbuses), (0x0D, .cmdExtbuses), (0x0E, .rsvd0E), (0x14, .rsvd14),
    (0x15, .rsvd15), (0x16, .rsvd16)]

/-- The row an identifier without operands stands for, or none where operands follow (R72, R85, R124). -/
def decodeCommand (cid : Byte) : Option Instr := commandTable.lookup cid

/-- The row of an identifier with operands: 0x00 is BuildCanFrame, 0x0F to 0x13 and 0x17 to 0xFF are the unknown
identifiers (R72, R128). Any other identifier takes no operands and never reaches this function from a decoded command; for it
the source's fallback to command 0 stands. -/
def buildInstr (cid : Byte) (ops : BuildOperands) : Instr :=
  if isUnknown0F13 cid then .cmdUnknown0F13 cid ops
  else if isUnknown17FF cid then .cmdUnknown17FF cid ops
  else .cmdBuild ops

/-- The class of a byte other than the command lead byte 0xF1 in `CPS = IDLE` (R70, rows 1 and 3). -/
def decodeIdle (m : Mode) (b : Byte) : Instr :=
  if b = 0xE7#8 ∧ m = .init then .hs else .stray b

/-- An adapter frame: the row is selected by byte 0 bit 6 (R88, R191). -/
def adapterInstr (c : Conn) (b0 b1 b2 b3 b4 : Byte) (payload : List Byte) : Instr :=
  if rtrBit b0 then .adpRemote c (adapterOperands b0 b1 b2 b3 b4 payload)
  else .adpData c (adapterOperands b0 b1 b2 b3 b4 payload)

/-- The operands of an identifier that has them: six header bytes, then as many payload bytes as header byte 5 says (R73,
R76). -/
def decodeOperands (cid : Byte) (bs : List Byte) : Except DecodeError (Instr × List Byte) :=
  match bs with
  | h0 :: h1 :: h2 :: h3 :: h4 :: h5 :: ps =>
    if ps.length < (payloadLen h5).val then .error .shortPayload
    else .ok (buildInstr cid (buildOperands h0 h1 h2 h3 h4 h5 (ps.take (payloadLen h5).val)),
      ps.drop (payloadLen h5).val)
  | _ => .error .shortHeader

/-- A transaction at the head of the client's bytes, read from `CPS = IDLE` (R70 to R76). -/
def decodeClient (m : Mode) (bs : List Byte) : Except DecodeError (Instr × List Byte) :=
  match bs with
  | [] => .error .empty
  | b :: rest =>
    if b = 0xF1#8 then
      match rest with
      | [] => .error .noIdentifier
      | cid :: ops =>
        match decodeCommand cid with
        | some i => .ok (i, ops)
        | none => decodeOperands cid ops
    else .ok (decodeIdle m b, rest)

/-- A frame at the head of an adapter's bytes, read from `ACNT[c] = 0` (R79 to R82). -/
def decodeAdapter (c : Conn) (bs : List Byte) : Except DecodeError (Instr × List Byte) :=
  match bs with
  | b0 :: b1 :: b2 :: b3 :: b4 :: ps =>
    if ps.length < 8 then .error .shortFrame else .ok (adapterInstr c b0 b1 b2 b3 b4 (ps.take 8), ps.drop 8)
  | _ => .error .shortFrame

/-- The decoder: the transaction at the head of a stream's bytes, and the bytes after it. -/
def decode (src : Stream) (bs : List Byte) : Except DecodeError (Instr × List Byte) :=
  match src with
  | .client m => decodeClient m bs
  | .adapter c => decodeAdapter c bs

/-- The operand bytes of a BuildCanFrame (R73 to R76). -/
def encodeOperands (ops : BuildOperands) : List Byte :=
  le4 ops.raw ++ [busByte ops, lenByte ops] ++ ops.data

/-- The bytes of an adapter frame (R79 to R82). -/
def encodeAdapter (rtr : Bool) (ops : AdapterOperands) : List Byte :=
  [adapterByte0 rtr ops] ++ be4 ops.id ++ ops.payload

/-- The encoder: the bytes of a transaction, in stream order (R70 to R82). -/
def encode (i : Instr) : List Byte :=
  match i with
  | .hs => [0xE7]
  | .cmdBuild ops => [0xF1, 0x00] ++ encodeOperands ops
  | .cmdTimesync => [0xF1, 0x01]
  | .cmdCanparams => [0xF1, 0x06]
  | .cmdDevinfo => [0xF1, 0x07]
  | .cmdKeepalive => [0xF1, 0x09]
  | .cmdNumbuses => [0xF1, 0x0C]
  | .cmdExtbuses => [0xF1, 0x0D]
  | .rsvd02 => [0xF1, 0x02]
  | .rsvd03 => [0xF1, 0x03]
  | .rsvd04 => [0xF1, 0x04]
  | .rsvd05 => [0xF1, 0x05]
  | .rsvd08 => [0xF1, 0x08]
  | .rsvd0A => [0xF1, 0x0A]
  | .rsvd0B => [0xF1, 0x0B]
  | .rsvd0E => [0xF1, 0x0E]
  | .rsvd14 => [0xF1, 0x14]
  | .rsvd15 => [0xF1, 0x15]
  | .rsvd16 => [0xF1, 0x16]
  | .cmdUnknown0F13 cid ops => [0xF1, cid] ++ encodeOperands ops
  | .cmdUnknown17FF cid ops => [0xF1, cid] ++ encodeOperands ops
  | .stray b => [b]
  | .adpData _ ops => encodeAdapter false ops
  | .adpRemote _ ops => encodeAdapter true ops

/-- The transaction notation `BUILD bus=b id=i ext=e data=[…]` of R87. -/
def notationBuild (bus : BitVec 2) (id : Word32) (ext : Bool) (data : List Byte) : List Byte :=
  [0xF1, 0x00] ++ le4 (if ext then id ||| 0x80000000#32 else id) ++ [bus.setWidth 8, BitVec.ofNat 8 data.length] ++ data

/-- The transaction notation `ADP.DATA id=i ext=e data=[…]` of R87. -/
def notationAdpData (id : Word32) (ext : Bool) (data : List Byte) : List Byte :=
  [(BitVec.ofBool ext).setWidth 8 <<< 7 ||| BitVec.ofNat 8 data.length] ++ be4 id ++ data ++ zeros (8 - data.length)

/-- The transaction notation `ADP.REMOTE id=i ext=e dlc=k` of R87. -/
def notationAdpRemote (id : Word32) (ext : Bool) (dlc : BitVec 4) : List Byte :=
  [(BitVec.ofBool ext).setWidth 8 <<< 7 ||| 0x40 ||| dlc.setWidth 8] ++ be4 id ++ zeros 8

/-- The bytes of a number of `8 * n` bits whose FIRST byte in stream order is the most significant, as the opcode table's
patterns and match values are written (R88: "most significant bit first, bytes in stream order"). -/
def bytesOfNumber : (n : Nat) → (w : Nat) → List Byte
  | 0, _ => []
  | n + 1, w => bytesOfNumber n (w / 256) ++ [BitVec.ofNat 8 w]

/-- The bytes of a table word. A word of a row longer than one byte that does not begin with 0xF1 in the table's own numbering
and ends with it is read as numbered from its last byte (log entry 14). -/
def tableBytes (nbits w : Nat) : List Byte :=
  let bs := bytesOfNumber (nbits / 8) w
  match bs, bs.reverse with
  | b :: _ :: _, l :: _ => if b ≠ 0xF1#8 ∧ l = 0xF1#8 ∧ bs.length ≠ 13 then bs.reverse else bs
  | _, _ => bs

/-- The stream of a table word: 13 bytes are an adapter frame, here of A0; anything else is the client's, in `MODE = INIT`
(log entry 14). -/
def tableStream (nbits : Nat) : Stream := if nbits = 104 then .adapter .a0 else .client .init

/-- The instruction the decoder reads from the bytes of a table word, followed by bytes of zeros. -/
def decodeTableWord (nbits w : Nat) : Option Instr :=
  match decode (tableStream nbits) (tableBytes nbits w ++ zeros 16) with
  | .ok (i, _) => some i
  | .error _ => none

end Sys2Proof
end

