-- ==== Sys2Proof/Machine/State.lean ====
section
/-! DEFINITION. The state of the block as 10_state.md lists it, the contents of its ports (20_memory.md), the model's own
fields, the reasons a step can stop, and the state after reset (70_reset_and_hazards R280). -/

namespace Sys2Proof.Machine

/-- A port of the block: the client C or an adapter connection (R14, R50). -/
inductive Port where
  | client
  | adapter (c : Conn)
deriving DecidableEq, Repr

/-- What a receive port offers: the next byte, or a read error (R51). -/
inductive RxEvent where
  | byte (b : Byte)
  | err
deriving DecidableEq, Repr

/-- What a transmit port answers a transfer: it is ready, not ready, or reports a write error (R52). -/
inductive TxCondition where
  | ready
  | notReady
  | error
deriving DecidableEq, Repr

/-- The contents of a port, which the environment supplies and the block holds none of (R33, R50 to R52). -/
structure PortContents where
  /-- the events waiting on the receive half, the offered one first -/
  rx   : List RxEvent
  /-- the condition of the transmit half -/
  tx   : TxCondition
  /-- the bytes delivered to the peer, in order -/
  sent : List Byte
deriving DecidableEq, Repr

/-- `CPS`, the client parser state (R21). -/
inductive Cps where
  | idle
  | cmdid
  | hdr (k : Fin 6)
  | pay (k : Fin 8) (n : Fin 9)
deriving DecidableEq, Repr

/-- `ACNT[c]` and `ABUF[c]` (R23). -/
structure AdapterRx where
  acnt : Fin 13
  abuf : Vector Byte 13
deriving DecidableEq, Repr

/-- `OUTQ`: empty, or a destination and the bytes still to transfer, of which there is a first (R26, R221). -/
inductive OutQ where
  | empty
  | holding (dest : Port) (first : Byte) (rest : List Byte)
deriving DecidableEq, Repr

/-- The bytes `OUTQ` holds. -/
def OutQ.bytes : OutQ → List Byte
  | .empty => []
  | .holding _ x xs => x :: xs

/-- `STATUS` (R30). -/
inductive Status where
  | run
  | halted
  | faulted
deriving DecidableEq, Repr

/-- An event record: the event and its information (R250). -/
inductive Event where
  | idTooLongClient (raw : Word32)
  | idTooLongAdapter (c : Conn)
  | dataTooLong (c : Conn)
  | clientReadError (cps : Cps)
  | adapterReadError (c : Conn) (acnt : Fin 13)
  | writeError (p : Port)
  | reservedCommand (cid : Byte)
  | unroutable (bus : BitVec 2)
  | telemetryReject (c : Conn)
deriving DecidableEq, Repr

/-- The event codes of R250. -/
def Event.code : Event → Nat
  | .idTooLongClient _ => 1
  | .idTooLongAdapter _ => 1
  | .dataTooLong _ => 2
  | .clientReadError _ => 3
  | .adapterReadError _ _ => 4
  | .writeError _ => 5
  | .reservedCommand _ => 6
  | .unroutable _ => 7
  | .telemetryReject _ => 8

/-- One entry of the agenda: a move of an environment agent, or a turn of the block (R8, R51, R52, R27, R220; log entry 1). -/
inductive Turn where
  /-- the peer of `p` puts an event on its receive half (R51) -/
  | offer (p : Port) (e : RxEvent)
  /-- the peer of `p` sets the condition of its transmit half (R52) -/
  | accept (p : Port) (c : TxCondition)
  /-- the time source draws a value of `TIMER` (R27) -/
  | time (t : Word64)
  /-- the block takes a step; `choice` is the port it takes if that port is ready (R220) -/
  | block (choice : Port)
deriving DecidableEq, Repr

/-- Why a step has no next state. No instruction raises one: each meaning answers a next state. -/
inductive Fault where
  /-- Raised by a turn of the block in `STATUS = HALTED`, where no step is enabled (R253, R265). Safe: the hardware takes no
  step either. -/
  | halted
  /-- Raised by a turn of the block in `STATUS = FAULTED`, where no step is enabled (R254, R265). Safe: the model gives the
  situation no meaning. -/
  | faulted
deriving DecidableEq, Repr

/-- Why an instruction has no meaning. -/
inductive Refusal where
  /-- Raised by an arm of `exec` whose instruction has no meaning yet; no arm does. Safe. -/
  | notModelled (mnemonic : String)
deriving DecidableEq, Repr

/-- The state of the machine. -/
structure State where
  /-- `MODE` (R24) -/
  mode     : Mode
  /-- `CPS` (R21) -/
  cps      : Cps
  /-- `CBUF[0..13]` (R22) -/
  cbuf     : Vector Byte 14
  /-- `ACNT[0]`, `ABUF[0]` (R23) -/
  rx0      : AdapterRx
  /-- `ACNT[1]`, `ABUF[1]` (R23) -/
  rx1      : AdapterRx
  /-- `OUTQ` (R26) -/
  outq     : OutQ
  /-- `TIMER` (R27) -/
  timer    : Word64
  /-- `STATUS` (R30) -/
  status   : Status
  /-- `CAUSE` (R30) -/
  cause    : Event
  /-- `EVLOG`, oldest first (R31) -/
  evlog    : List Event
  /-- the configuration registers (R32) -/
  cfg      : Params
  /-- contents of `C?`/`C!` (R50) -/
  portC    : PortContents
  /-- contents of `A0?`/`A0!` (R50) -/
  portA0   : PortContents
  /-- contents of `A1?`/`A1!` (R50, R53) -/
  portA1   : PortContents
  /-- the model's own: the agents' moves and the block's turns to come (log entry 1) -/
  agenda   : List Turn
  /-- the model's own: the count that `Config.freePick` is applied to (log entry 2) -/
  draws    : Nat
  /-- the model's own: the identifier byte of the command in progress, which the hardware does not retain (R128; log entry
  8) -/
  cidLatch : Byte
deriving DecidableEq, Repr

/-- Nothing waiting, ready to accept, nothing delivered (log entry 7). -/
def PortContents.quiet : PortContents := ⟨[], .ready, []⟩

/-- An adapter receive path after reset: `ACNT[c] = 0` (R280). DESIGN CHOICE for the contents of `ABUF[c]`, log entry 5. -/
def AdapterRx.reset : AdapterRx := ⟨0, Vector.replicate 13 0⟩

/-- The block after reset with given parameters (R33, R280). DESIGN CHOICE: `CBUF`, `ABUF[c]` (log entry 5), `CAUSE` (log entry
6), the ports (log entry 7) and the model's own fields (log entries 1, 2, 8). -/
def State.resetWith (p : Params) : State where
  mode := .init
  cps := .idle
  cbuf := Vector.replicate 14 0
  rx0 := .reset
  rx1 := .reset
  outq := .empty
  timer := 0
  status := .run
  cause := .clientReadError .idle
  evlog := []
  cfg := p
  portC := .quiet
  portA0 := .quiet
  portA1 := .quiet
  agenda := []
  draws := 0
  cidLatch := 0

/-- The machine right after reset (R280). -/
def State.reset : State := State.resetWith Config.params

end Sys2Proof.Machine
end

