-- ==== Sys2Proof/Machine/Ops.lean ====
section
/-! DEFINITION. The named operations the meanings are made of: ports (20_memory R51, R52), `Emit` (00_scope R12), raising an
event (60_exceptions R250 to R254, R257), and reset, the only way on after a fatal or fault event (R258, R265, R280). -/

namespace Sys2Proof.Machine

/-- The contents of a port. -/
def State.port (s : State) : Port → PortContents
  | .client => s.portC
  | .adapter .a0 => s.portA0
  | .adapter .a1 => s.portA1

/-- `s` with the contents of a port replaced. -/
def State.setPort (s : State) (p : Port) (c : PortContents) : State :=
  match p with
  | .client => { s with portC := c }
  | .adapter .a0 => { s with portA0 := c }
  | .adapter .a1 => { s with portA1 := c }

/-- `ACNT[c]` and `ABUF[c]`. -/
def State.adapterRx (s : State) : Conn → AdapterRx
  | .a0 => s.rx0
  | .a1 => s.rx1

/-- `s` with `ACNT[c]` and `ABUF[c]` replaced. -/
def State.setAdapterRx (s : State) (c : Conn) (r : AdapterRx) : State :=
  match c with
  | .a0 => { s with rx0 := r }
  | .a1 => { s with rx1 := r }

/-- `ACNT[c] <- n`. -/
def State.setAcnt (s : State) (c : Conn) (n : Fin 13) : State :=
  s.setAdapterRx c { s.adapterRx c with acnt := n }

/-- The destination list of a fresh `OUTQ`: nothing to send leaves it empty. -/
def OutQ.ofList (p : Port) : List Byte → OutQ
  | [] => .empty
  | x :: xs => .holding p x xs

/-- `Emit(P!, xs)`: load `OUTQ` (R12, R26). -/
def emit (p : Port) (xs : List Byte) (s : State) : State := { s with outq := OutQ.ofList p xs }

/-- The class of an event when it is raised (R250). -/
inductive EventClass where
  | recoverable
  | fatal
  | fault
deriving DecidableEq, Repr

/-- Raising an event: it is appended to `EVLOG`; a fatal one also sets `STATUS` to HALTED and a fault to FAULTED, with `CAUSE`
(R250, R253, R254, R257). -/
def raiseEvent (k : EventClass) (e : Event) (s : State) : State :=
  match k with
  | .recoverable => { s with evlog := s.evlog ++ [e] }
  | .fatal => { s with evlog := s.evlog ++ [e], status := .halted, cause := e }
  | .fault => { s with evlog := s.evlog ++ [e], status := .faulted, cause := e }

/-- `Reset()` of a block whose ports hold something: R280 writes what it lists, and `CBUF`, `ABUF`, `CAUSE`, which it leaves
unspecified, and the ports, of which it drops no byte, stay (log entry 18). -/
def State.applyReset (p : Params) (s : State) : State :=
  { s with
    cfg := p, mode := .init, cps := .idle, rx0 := { s.rx0 with acnt := 0 }, rx1 := { s.rx1 with acnt := 0 },
    outq := .empty, timer := 0, status := .run, evlog := [] }

/-- The logical bus index of a connection: A0 is bus 0 and A1 is bus 1 (R14, R190). -/
def busOf : Conn → BitVec 2
  | .a0 => 0
  | .a1 => 1

end Sys2Proof.Machine
end

