-- ==== Sys2Proof/Machine/AnalysisEncoder.lean ====
section
/-! DEFINITION. The analysis-protocol encoder (42_analysis_encoder.md): the timestamp, the six responses and the telemetry
frame, as byte lists. -/

namespace Sys2Proof.Machine

/-- `TS32()`: `TIMER mod 2^32` (R166). -/
def ts32 (s : State) : Word32 := s.timer.setWidth 32

/-- `NUM_BUSES` as a byte (R164). -/
def numBusesByte : NumBuses → Byte
  | .one => 1
  | .two => 2

/-- `RespTimeSync()` (R160). -/
def respTimeSync (s : State) : List Byte := [0xF1, 0x01] ++ le4 (ts32 s)

/-- `RespCanBusParams()` (R161). -/
def respCanBusParams (s : State) : List Byte :=
  [0xF1, 0x06, 0x01] ++ le4 s.cfg.baud ++
    match s.cfg.numBuses with
    | .one => []
    | .two => [0x01#8] ++ le4 s.cfg.baud

/-- `RespDevInfo()` (R162). -/
def respDevInfo (s : State) : List Byte := [0xF1] ++ s.cfg.devInfo.toList

/-- `RespKeepAlive()` (R163). -/
def respKeepAlive : List Byte := [0xF1, 0x09, 0xDE, 0xAD]

/-- `RespNumBuses()` (R164). -/
def respNumBuses (s : State) : List Byte := [0xF1, 0x0C, numBusesByte s.cfg.numBuses]

/-- `RespExtBuses()` (R165). -/
def respExtBuses : List Byte := [0xF1, 0x0D] ++ zeros 15

/-- `Telemetry(f)` with the timestamp `ts`: nothing for a Remote frame or a dlc above 8 (R170 to R173). -/
def telemetry (ts : Word32) (f : Frame) : Option (List Byte) :=
  match f.payload with
  | none => none
  | some data =>
    if 8 < f.dlc then none
    else some ([0xF1#8, 0x00#8] ++ le4 ts ++ le4 (f.id ||| extBit31 f.ext) ++
      [f.bus.setWidth 8 <<< 4 ||| BitVec.ofNat 8 data.length] ++ data ++ [0x00#8])

end Sys2Proof.Machine
end

