-- ==== Sys2Proof/Machine/AdapterCodec.lean ====
section
/-! DEFINITION. The adapter-protocol codec (43_adapter_codec.md): encoding a frame to 13 bytes, decoding one, delivering it to
the client, and the meanings of ADP_DATA and ADP_REMOTE. -/

namespace Sys2Proof.Machine

/-- `AdapterEncode(f)` (R196, R197). -/
def adapterEncode (f : Frame) : List Byte :=
  match f with
  | .data _ id ext data =>
    [extBit7 ext ||| rtrBit6 f ||| BitVec.ofNat 8 data.length] ++ be4 id ++ data ++ zeros (8 - data.length)
  | .remote _ id ext dlc => [extBit7 ext ||| rtrBit6 f ||| dlc.setWidth 8] ++ be4 id ++ zeros 8

/-- `DecodeData` (R192): a dlc of 9 to 15 is a length failure, after the identifier check. -/
def decodeData (c : Conn) (ops : AdapterOperands) : Except FrameError Frame :=
  if 8 < ops.dlc then
    if idMask ops.ext < ops.id then .error .idTooLong else .error .dataTooLong
  else newData (busOf c) ops.id ops.ext (ops.payload.take ops.dlc.toNat)

/-- `DecodeRemote` (R193). -/
def decodeRemote (c : Conn) (ops : AdapterOperands) : Except FrameError Frame :=
  newRemote (busOf c) ops.id ops.ext ops.dlc

/-- `AdapterDecode`'s result for a decoded row (R191): none for an instruction of the client. -/
def frameOf (i : Instr) : Option (Except FrameError Frame) :=
  match i with
  | .adpData c ops => some (decodeData c ops)
  | .adpRemote c ops => some (decodeRemote c ops)
  | .hs | .cmdBuild _ | .cmdTimesync | .cmdCanparams | .cmdDevinfo | .cmdKeepalive | .cmdNumbuses | .cmdExtbuses => none
  | .rsvd02 | .rsvd03 | .rsvd04 | .rsvd05 | .rsvd08 | .rsvd0A | .rsvd0B | .rsvd0E | .rsvd14 | .rsvd15 | .rsvd16 => none
  | .cmdUnknown0F13 _ _ | .cmdUnknown17FF _ _ | .stray _ => none

/-- The event of a validation failure on connection `c` (R194, R250). -/
def adapterErrorEvent (c : Conn) : FrameError → Event
  | .idTooLong => .idTooLongAdapter c
  | .dataTooLong => .dataTooLong c

/-- `Deliver(c, r)` (R194, R226). -/
def deliver (c : Conn) (r : Except FrameError Frame) (s : State) : State :=
  match r with
  | .error e => raiseEvent .recoverable (adapterErrorEvent c e) s
  | .ok f =>
    match telemetry (ts32 s) f with
    | none => raiseEvent .recoverable (.telemetryReject c) s
    | some t => emit .client t s

/-- ADP_DATA (R190 to R192, R194): `ACNT[c] <- 0`, then decode and deliver. -/
def execAdpData (c : Conn) (ops : AdapterOperands) (s : State) : Host.Outcome State Fault Refusal :=
  .next (deliver c (decodeData c ops) (s.setAcnt c 0))

/-- ADP_REMOTE (R190, R191, R193, R194): `ACNT[c] <- 0`, then decode and deliver. -/
def execAdpRemote (c : Conn) (ops : AdapterOperands) (s : State) : Host.Outcome State Fault Refusal :=
  .next (deliver c (decodeRemote c ops) (s.setAcnt c 0))

end Sys2Proof.Machine
end

