-- ==== Sys2Proof/Machine/Router.lean ====
section
/-! DEFINITION. The dual-bus router (44_gateway_router.md R222 to R225). -/

namespace Sys2Proof.Machine

/-- `ROUTE_MAP(b)` (R223). -/
def routeTo (m : RouteMap) (bus : BitVec 2) : Conn :=
  if bus = 0 then m.bus0 else if bus = 1 then m.bus1 else if bus = 2 then m.bus2 else m.bus3

/-- A connection exists: A1 only when `NUM_BUSES = 2` (R53). -/
def connPresent (n : NumBuses) (c : Conn) : Bool :=
  match c with
  | .a0 => true
  | .a1 => n == .two

/-- `Unroutable(f)` (R224). -/
def unroutable (f : Frame) (s : State) : State :=
  match s.cfg.unroutablePolicy with
  | .drop => raiseEvent .recoverable (.unroutable f.bus) s
  | .fault => raiseEvent .fault (.unroutable f.bus) s

/-- `Route(f)` (R222). -/
def route (f : Frame) (s : State) : State :=
  if connPresent s.cfg.numBuses (routeTo s.cfg.routeMap f.bus)
  then emit (.adapter (routeTo s.cfg.routeMap f.bus)) (adapterEncode f) s
  else unroutable f s

/-- `Respond(xs)` (R225). -/
def respond (xs : List Byte) (s : State) : State := emit .client xs s

end Sys2Proof.Machine
end

