-- ==== Sys2Proof/Machine/AnalysisDecoder.lean ====
section
/-! DEFINITION. The analysis-protocol decoder's meanings (41_analysis_decoder.md R121 to R134): the handshake, a stray byte,
BuildCanFrame and its aliases, and the six responses. The byte steps that lead to them are in Fetch.lean. -/

namespace Sys2Proof.Machine

/-- HS (R121, R25): `MODE <- BINARY` when `MODE = INIT`. -/
def execHs (s : State) : Host.Outcome State Fault Refusal :=
  .next { s with mode := if s.mode = .init then .binary else s.mode }

/-- STRAY (R122): no state change, whatever the byte. -/
def execStray (_ : Byte) (s : State) : Host.Outcome State Fault Refusal := .next s

/-- `BuildComplete` (R127) on the operands: a Data frame, routed, or `IdTooLong`. -/
def buildComplete (ops : BuildOperands) (s : State) : State :=
  match newData ops.bus (idOfRaw ops.raw) (extOfRaw ops.raw) ops.data with
  | .ok f => route f s
  | .error _ => raiseEvent .recoverable (.idTooLongClient ops.raw) s

/-- CMD_BUILD (R125 to R127): `CPS <- IDLE`, then completion. -/
def execCmdBuild (ops : BuildOperands) (s : State) : Host.Outcome State Fault Refusal :=
  .next (buildComplete ops { s with cps := .idle })

/-- CMD_UNKNOWN_0F_13 (R128): exactly a BuildCanFrame; the identifier is not retained. -/
def execCmdUnknown0F13 (_ : Byte) (ops : BuildOperands) (s : State) : Host.Outcome State Fault Refusal :=
  .next (buildComplete ops { s with cps := .idle })

/-- CMD_UNKNOWN_17_FF (R128): exactly a BuildCanFrame; the identifier is not retained. -/
def execCmdUnknown17FF (_ : Byte) (ops : BuildOperands) (s : State) : Host.Outcome State Fault Refusal :=
  .next (buildComplete ops { s with cps := .idle })

/-- CMD_TIMESYNC (R129). -/
def execCmdTimesync (s : State) : Host.Outcome State Fault Refusal :=
  .next (respond (respTimeSync s) { s with cps := .idle })

/-- CMD_CANPARAMS (R130). -/
def execCmdCanparams (s : State) : Host.Outcome State Fault Refusal :=
  .next (respond (respCanBusParams s) { s with cps := .idle })

/-- CMD_DEVINFO (R131). -/
def execCmdDevinfo (s : State) : Host.Outcome State Fault Refusal :=
  .next (respond (respDevInfo s) { s with cps := .idle })

/-- CMD_KEEPALIVE (R132). -/
def execCmdKeepalive (s : State) : Host.Outcome State Fault Refusal :=
  .next (respond respKeepAlive { s with cps := .idle })

/-- CMD_NUMBUSES (R133). -/
def execCmdNumbuses (s : State) : Host.Outcome State Fault Refusal :=
  .next (respond (respNumBuses s) { s with cps := .idle })

/-- CMD_EXTBUSES (R134). -/
def execCmdExtbuses (s : State) : Host.Outcome State Fault Refusal :=
  .next (respond respExtBuses { s with cps := .idle })

end Sys2Proof.Machine
end

