-- ==== Sys2Proof/Machine/Reserved.lean ====
section
/-! DEFINITION. The reserved commands (41_analysis_decoder.md R140 to R151): one meaning each over the shared `Reserved(cid)`. -/

namespace Sys2Proof.Machine

/-- `Reserved(cid)` (R140): under `ignore`, `CPS <- IDLE` and the event is recorded; under `fault`, `STATUS <- FAULTED` and
`CPS` stays. -/
def reserved (cid : Byte) (s : State) : State :=
  match s.cfg.reservedPolicy with
  | .ignore => raiseEvent .recoverable (.reservedCommand cid) { s with cps := .idle }
  | .fault => raiseEvent .fault (.reservedCommand cid) s

/-- RSVD_02 (R141). -/
def execRsvd02 (s : State) : Host.Outcome State Fault Refusal := .next (reserved 0x02 s)

/-- RSVD_03 (R142). -/
def execRsvd03 (s : State) : Host.Outcome State Fault Refusal := .next (reserved 0x03 s)

/-- RSVD_04 (R143). -/
def execRsvd04 (s : State) : Host.Outcome State Fault Refusal := .next (reserved 0x04 s)

/-- RSVD_05 (R144). -/
def execRsvd05 (s : State) : Host.Outcome State Fault Refusal := .next (reserved 0x05 s)

/-- RSVD_08 (R145). -/
def execRsvd08 (s : State) : Host.Outcome State Fault Refusal := .next (reserved 0x08 s)

/-- RSVD_0A (R146). -/
def execRsvd0A (s : State) : Host.Outcome State Fault Refusal := .next (reserved 0x0A s)

/-- RSVD_0B (R147). -/
def execRsvd0B (s : State) : Host.Outcome State Fault Refusal := .next (reserved 0x0B s)

/-- RSVD_0E (R148). -/
def execRsvd0E (s : State) : Host.Outcome State Fault Refusal := .next (reserved 0x0E s)

/-- RSVD_14 (R149). -/
def execRsvd14 (s : State) : Host.Outcome State Fault Refusal := .next (reserved 0x14 s)

/-- RSVD_15 (R150). -/
def execRsvd15 (s : State) : Host.Outcome State Fault Refusal := .next (reserved 0x15 s)

/-- RSVD_16 (R151). -/
def execRsvd16 (s : State) : Host.Outcome State Fault Refusal := .next (reserved 0x16 s)

end Sys2Proof.Machine
end

