-- ==== Sys2Proof/Machine/Fetch.lean ====
section
/-! DEFINITION. The step up to the meaning it runs: the agents' moves, the block's choice of a port (44_gateway_router R220),
the draining of `OUTQ` (R221), and the byte steps of the receive paths (41_analysis_decoder R120 to R126, R152, R153;
43_adapter_codec R190, R195). A byte that completes a transaction gives the decoded instruction to run; the meanings of the
instructions do the rest. -/

namespace Sys2Proof.Machine

/-- What a step does before a meaning: it stops, it is whole already, or it completes an instruction, to be run in the state
given. -/
inductive Fetched where
  | stop (r : Fault)
  | moved (s : State)
  | run (i : Instr) (s : State)
deriving DecidableEq, Repr

/-- `CBUF[i] <- b` (R125, R126). -/
def State.writeCbuf (s : State) (i : Fin 14) (b : Byte) : State := { s with cbuf := s.cbuf.set i b }

/-- The BuildCanFrame in `CBUF`, with `n` payload bytes (R127). -/
def State.builtInstr (s : State) (n : Nat) : Instr :=
  buildInstr s.cidLatch (buildOperands s.cbuf[0] s.cbuf[1] s.cbuf[2] s.cbuf[3] s.cbuf[4] s.cbuf[5]
    ((s.cbuf.toList.drop 6).take n))

/-- A byte in `CPS = IDLE` (R70, R121 to R123). -/
def idleByte (b : Byte) (s : State) : Fetched :=
  if b = 0xF1#8 then .moved { s with cps := .cmdid } else .run (decodeIdle s.mode b) s

/-- The identifier byte (R124, R128): a command without operands is complete; any other goes on to its header. -/
def dispatchByte (cid : Byte) (s : State) : Fetched :=
  match decodeCommand cid with
  | some i => .run i s
  | none => .moved { s with cps := .hdr 0, cidLatch := cid }

/-- A header byte (R125). -/
def headerByte (k : Fin 6) (b : Byte) (s : State) : Fetched :=
  let s := s.writeCbuf ⟨k.val, by omega⟩ b
  if h : k.val < 5 then .moved { s with cps := .hdr ⟨k.val + 1, by omega⟩ }
  else if payloadLen b = 0 then .run (s.builtInstr 0) s
  else .moved { s with cps := .pay 0 (payloadLen b) }

/-- A payload byte (R126). -/
def payloadByte (k : Fin 8) (n : Fin 9) (b : Byte) (s : State) : Fetched :=
  let s := s.writeCbuf ⟨6 + k.val, by omega⟩ b
  if h : k.val + 1 < n.val then .moved { s with cps := .pay ⟨k.val + 1, by omega⟩ n }
  else .run (s.builtInstr n.val) s

/-- `ClientStep` on a byte (R120). -/
def clientByte (b : Byte) (s : State) : Fetched :=
  match s.cps with
  | .idle => idleByte b s
  | .cmdid => dispatchByte b s
  | .hdr k => headerByte k b s
  | .pay k n => payloadByte k n b s

/-- `ClientReadError()` (R152, R153). -/
def clientReadError (s : State) : State :=
  { raiseEvent .recoverable (.clientReadError s.cps) s with cps := .idle }

/-- `AdapterReadError(c)` (R195). -/
def adapterReadError (c : Conn) (s : State) : State :=
  (raiseEvent .recoverable (.adapterReadError c (s.adapterRx c).acnt) s).setAcnt c 0

/-- The frame in `ABUF[c]` (R190, R191). -/
def framedInstr (c : Conn) (B : Vector Byte 13) : Instr :=
  adapterInstr c B[0] B[1] B[2] B[3] B[4] (B.toList.drop 5)

/-- `AdapterStep` on a byte (R190). `ACNT[c] <- 0` of the 13th byte stands in the meaning it runs. -/
def adapterByte (c : Conn) (b : Byte) (s : State) : Fetched :=
  let r := s.adapterRx c
  let B := r.abuf.set r.acnt b
  if h : r.acnt.val < 12 then .moved (s.setAdapterRx c ⟨⟨r.acnt.val + 1, by omega⟩, B⟩)
  else .run (framedInstr c B) (s.setAdapterRx c ⟨r.acnt, B⟩)

/-- `LivePorts` (R220, R227). -/
def State.live (s : State) : Port → Bool
  | .client => true
  | .adapter c => connPresent s.cfg.numBuses c

/-- The port is live and offers an event (R51, R220). -/
def State.readyPort (s : State) (p : Port) : Bool := s.live p && !(s.port p).rx.isEmpty

/-- `Ready` (R220). -/
def State.readyPorts (s : State) : List Port :=
  [.client, .adapter .a0, .adapter .a1].filter s.readyPort

/-- The port a free draw takes: the only one that is ready, or any of several (R220; log entry 2). -/
def State.drawPort (s : State) : Option Port :=
  match s.readyPorts with
  | [] => none
  | [p] => some p
  | p :: ps => (p :: ps)[Config.freePick s.draws % (ps.length + 1)]?

/-- The port the block takes: the turn's choice if it is ready, else one by a free draw; none if no port is ready (R220). -/
def State.choosePort (s : State) (choice : Option Port) : Option Port :=
  match choice with
  | some p => if s.readyPort p then some p else s.drawPort
  | none => s.drawPort

/-- `RxByte(p)`: the offered event leaves the stream (R12, R51, R57); the count of draws goes on. -/
def State.consume (s : State) (p : Port) : State :=
  { s.setPort p { s.port p with rx := (s.port p).rx.tail } with draws := s.draws + 1 }

/-- One consumed event on its receive path (R220). -/
def serve (p : Port) (e : RxEvent) (s : State) : Fetched :=
  match p, e with
  | .client, .err => .moved (clientReadError s)
  | .client, .byte b => clientByte b s
  | .adapter c, .err => .moved (adapterReadError c s)
  | .adapter c, .byte b => adapterByte c b s

/-- The block takes an input event, or waits with all state unchanged (R220, R265; log entry 9). -/
def inputStep (choice : Option Port) (s : State) : Fetched :=
  match s.choosePort choice with
  | none => .moved s
  | some p =>
    match (s.port p).rx with
    | [] => .moved s
    | e :: _ => serve p e (s.consume p)

/-- A byte transferred to a transmit port: delivered to the peer, in order (R52, R221). -/
def transfer (p : Port) (x : Byte) (s : State) : State :=
  s.setPort p { s.port p with sent := (s.port p).sent ++ [x] }

/-- `TxStep()` (R221, R253); a port that is not ready stalls the block (log entry 9). -/
def txStep (p : Port) (x : Byte) (xs : List Byte) (s : State) : State :=
  match (s.port p).tx with
  | .ready => emit p xs (transfer p x s)
  | .notReady => s
  | .error => raiseEvent .fatal (.writeError p) s

/-- The block's own step, `Step()` (R220). -/
def blockStep (choice : Option Port) (s : State) : Fetched :=
  match s.status with
  | .halted => .stop .halted
  | .faulted => .stop .faulted
  | .run =>
    match s.outq with
    | .holding p x xs => .moved (txStep p x xs s)
    | .empty => inputStep choice s

/-- A move of the peer of `p`. The peer of A1 exists only when `NUM_BUSES = 2`; where it does not, nobody moves (R8, R53; log
entry 7). -/
def State.peerMove (s : State) (p : Port) (c : PortContents) : State := if s.live p then s.setPort p c else s

/-- The peer of `p` puts an event at the end of its stream (R51). -/
def offerMove (p : Port) (e : RxEvent) (s : State) : State := s.peerMove p { s.port p with rx := (s.port p).rx ++ [e] }

/-- The peer of `p` sets its transmit half's condition (R52). -/
def acceptMove (p : Port) (c : TxCondition) (s : State) : State := s.peerMove p { s.port p with tx := c }

/-- The time source draws a value; one below the old value is no move of it (R27; log entry 11). -/
def timeMove (t : Word64) (s : State) : State := { s with timer := if s.timer ≤ t then t else s.timer }

/-- The next turn of the agenda, or a turn of the block where the agenda is empty (log entry 1). -/
def fetch (s : State) : Fetched :=
  match s.agenda with
  | [] => blockStep none s
  | .block p :: ts => blockStep (some p) { s with agenda := ts }
  | .offer p e :: ts => .moved (offerMove p e { s with agenda := ts })
  | .accept p c :: ts => .moved (acceptMove p c { s with agenda := ts })
  | .time t :: ts => .moved (timeMove t { s with agenda := ts })

/-- A buffer whose first bytes are given. -/
def overlay {n : Nat} (v : Vector Byte n) (bs : List Byte) : Vector Byte n :=
  Vector.ofFn fun i => (bs[i.val]?).getD v[i]

/-- The client parser after all but the last byte of a transaction: `CPS`, `CBUF` and the identifier (R121 to R126). -/
def State.parsedBut (s : State) (bs : List Byte) : State :=
  match bs with
  | _ :: cid :: op :: ops =>
    let s := { s with cidLatch := cid, cbuf := overlay s.cbuf ((op :: ops).dropLast) }
    if ops.length < 6 then { s with cps := .hdr (Fin.ofNat 6 ops.length) }
    else { s with cps := .pay (Fin.ofNat 8 (ops.length - 6)) (Fin.ofNat 9 (ops.length - 5)) }
  | [_, _] => { s with cps := .cmdid }
  | [b] => { s with cps := .idle, mode := if b = 0xE7#8 then .init else s.mode }
  | [] => s

/-- `s` with the bytes of one transaction of a stream received but for the last, which is offered, and the block's turn to take
it: the next step completes the transaction (log entry 13). -/
def State.place (s : State) (src : Stream) (bs : List Byte) : State :=
  let s := { s with status := .run, outq := .empty }
  let last := RxEvent.byte (bs.getLastD 0)
  match src with
  | .client _ =>
    { s.parsedBut bs with
      portC := { s.portC with rx := last :: s.portC.rx }, agenda := .block .client :: s.agenda }
  | .adapter c =>
    let s := s.setAdapterRx c ⟨12, overlay (s.adapterRx c).abuf bs.dropLast⟩
    { s.setPort (.adapter c) { s.port (.adapter c) with rx := last :: (s.port (.adapter c)).rx } with
      agenda := .block (.adapter c) :: s.agenda }

/-- `s` with the transaction of a table word placed before the next step. -/
def State.placeTableWord (s : State) (nbits w : Nat) : State :=
  let bs := tableBytes nbits w ++ zeros 16
  match decode (tableStream nbits) bs with
  | .ok (_, rest) => s.place (tableStream nbits) (bs.take (bs.length - rest.length))
  | .error _ => s

end Sys2Proof.Machine
end

