-- ==== Sys2Proof/Machine/Dispatch.lean ====
section
/-! DEFINITION. exec: one arm for each constructor of Instr, each one direct call of the instruction's meaning. -/

namespace Sys2Proof.Machine

def exec (i : Instr) (s : State) : Host.Outcome State Fault Refusal :=
  match i with
  | .hs => Sys2Proof.Machine.execHs s
  | .cmdBuild ops => Sys2Proof.Machine.execCmdBuild ops s
  | .cmdTimesync => Sys2Proof.Machine.execCmdTimesync s
  | .cmdCanparams => Sys2Proof.Machine.execCmdCanparams s
  | .cmdDevinfo => Sys2Proof.Machine.execCmdDevinfo s
  | .cmdKeepalive => Sys2Proof.Machine.execCmdKeepalive s
  | .cmdNumbuses => Sys2Proof.Machine.execCmdNumbuses s
  | .cmdExtbuses => Sys2Proof.Machine.execCmdExtbuses s
  | .rsvd02 => Sys2Proof.Machine.execRsvd02 s
  | .rsvd03 => Sys2Proof.Machine.execRsvd03 s
  | .rsvd04 => Sys2Proof.Machine.execRsvd04 s
  | .rsvd05 => Sys2Proof.Machine.execRsvd05 s
  | .rsvd08 => Sys2Proof.Machine.execRsvd08 s
  | .rsvd0A => Sys2Proof.Machine.execRsvd0A s
  | .rsvd0B => Sys2Proof.Machine.execRsvd0B s
  | .rsvd0E => Sys2Proof.Machine.execRsvd0E s
  | .rsvd14 => Sys2Proof.Machine.execRsvd14 s
  | .rsvd15 => Sys2Proof.Machine.execRsvd15 s
  | .rsvd16 => Sys2Proof.Machine.execRsvd16 s
  | .cmdUnknown0F13 cid ops => Sys2Proof.Machine.execCmdUnknown0F13 cid ops s
  | .cmdUnknown17FF cid ops => Sys2Proof.Machine.execCmdUnknown17FF cid ops s
  | .stray b => Sys2Proof.Machine.execStray b s
  | .adpData c ops => Sys2Proof.Machine.execAdpData c ops s
  | .adpRemote c ops => Sys2Proof.Machine.execAdpRemote c ops s

end Sys2Proof.Machine
end

