-- ==== Sys2Proof/Machine/Step.lean ====
section
/-! DEFINITION. One step of the machine: the next turn of the agenda, and, where the block's byte completes a transaction, the
meaning of the decoded instruction. -/

namespace Sys2Proof.Machine

/-- One step (44_gateway_router R220; log entries 1, 9, 10, 12). -/
def step (s : State) : Host.Outcome State Fault Refusal :=
  match fetch s with
  | .stop r => .fault r
  | .moved t => .next t
  | .run i t => exec i t

/-- `s` with the instruction of a table word placed where the next step completes and runs it (log entries 13, 14). -/
def State.withFetchWord (s : State) (nbits w : Nat) : State := s.placeTableWord nbits w

end Sys2Proof.Machine
end

