-- ==== Sys2Proof/Laws/PerInstr.lean ====
section
/-! SUPPORT. Statements about every instruction as syntax, one lemma for each constructor. -/

namespace Sys2Proof.Laws

/-- How many bytes a transaction has (20_memory R56, 30_encoding R85). -/
def transactionLength (i : Instr) : Nat :=
  match i with
  | .hs | .stray _ => 1
  | .cmdTimesync | .cmdCanparams | .cmdDevinfo | .cmdKeepalive | .cmdNumbuses | .cmdExtbuses => 2
  | .rsvd02 | .rsvd03 | .rsvd04 | .rsvd05 | .rsvd08 | .rsvd0A | .rsvd0B | .rsvd0E | .rsvd14 | .rsvd15 | .rsvd16 => 2
  | .cmdBuild ops | .cmdUnknown0F13 _ ops | .cmdUnknown17FF _ ops => 8 + min ops.len.toNat 8
  | .adpData _ _ | .adpRemote _ _ => 13

theorem encodeOperands_length (ops : BuildOperands) (h : ops.wf = true) :
    (encodeOperands ops).length = 6 + min ops.len.toNat 8 := by
  simp only [BuildOperands.wf, payloadLenOfCode, beq_iff_eq] at h
  simp only [encodeOperands, le4, List.length_append, List.length_cons, List.length_nil, h]

theorem encodeAdapter_length (rtr : Bool) (ops : AdapterOperands) (h : ops.wf = true) :
    (encodeAdapter rtr ops).length = 13 := by
  simp only [AdapterOperands.wf, beq_iff_eq] at h
  simp [encodeAdapter, be4, h]

namespace EncodedLength

/-- The encoder gives a well-formed instruction as many bytes as the spec gives its transaction. -/
def Statement (i : Instr) : Prop := i.wf = true → (encode i).length = transactionLength i

theorem hs : Statement .hs := fun _ => rfl
theorem cmdBuild (ops : BuildOperands) : Statement (.cmdBuild ops) := fun h => by
  simp only [encode, List.length_append, encodeOperands_length ops h, transactionLength, List.length_cons, List.length_nil]
  omega
theorem cmdTimesync : Statement .cmdTimesync := fun _ => rfl
theorem cmdCanparams : Statement .cmdCanparams := fun _ => rfl
theorem cmdDevinfo : Statement .cmdDevinfo := fun _ => rfl
theorem cmdKeepalive : Statement .cmdKeepalive := fun _ => rfl
theorem cmdNumbuses : Statement .cmdNumbuses := fun _ => rfl
theorem cmdExtbuses : Statement .cmdExtbuses := fun _ => rfl
theorem rsvd02 : Statement .rsvd02 := fun _ => rfl
theorem rsvd03 : Statement .rsvd03 := fun _ => rfl
theorem rsvd04 : Statement .rsvd04 := fun _ => rfl
theorem rsvd05 : Statement .rsvd05 := fun _ => rfl
theorem rsvd08 : Statement .rsvd08 := fun _ => rfl
theorem rsvd0A : Statement .rsvd0A := fun _ => rfl
theorem rsvd0B : Statement .rsvd0B := fun _ => rfl
theorem rsvd0E : Statement .rsvd0E := fun _ => rfl
theorem rsvd14 : Statement .rsvd14 := fun _ => rfl
theorem rsvd15 : Statement .rsvd15 := fun _ => rfl
theorem rsvd16 : Statement .rsvd16 := fun _ => rfl
theorem cmdUnknown0F13 (cid : Byte) (ops : BuildOperands) : Statement (.cmdUnknown0F13 cid ops) := fun h => by
  have h' : ops.wf = true := ((Bool.and_eq_true _ _).mp h).2
  simp only [encode, List.length_append, encodeOperands_length ops h', transactionLength, List.length_cons, List.length_nil]
  omega
theorem cmdUnknown17FF (cid : Byte) (ops : BuildOperands) : Statement (.cmdUnknown17FF cid ops) := fun h => by
  have h' : ops.wf = true := ((Bool.and_eq_true _ _).mp h).2
  simp only [encode, List.length_append, encodeOperands_length ops h', transactionLength, List.length_cons, List.length_nil]
  omega
theorem stray (b : Byte) : Statement (.stray b) := fun _ => rfl
theorem adpData (c : Conn) (ops : AdapterOperands) : Statement (.adpData c ops) := fun h =>
  encodeAdapter_length false ops h
theorem adpRemote (c : Conn) (ops : AdapterOperands) : Statement (.adpRemote c ops) := fun h =>
  encodeAdapter_length true ops h

end EncodedLength

end Sys2Proof.Laws
end

