-- ==== Sys2Proof/Safety.lean ====
section
/-! DEFINITION. What claims are stated in: when the block can serve, what every reachable state satisfies, what a safe run is,
and which states a step cannot tell apart. -/

namespace Sys2Proof.Machine

/-- The block runs and holds no output, so that it may take input and a meaning may run (R120, R190, R220). -/
def State.CanServe (s : State) : Prop := s.status = .run ∧ s.outq = .empty

/-- The choice of the block's turn, where the next turn is the block's (log entry 1). -/
def State.blockChoice (s : State) : Option (Option Port) :=
  match s.agenda with
  | [] => some none
  | .block p :: _ => some (some p)
  | .offer _ _ :: _ => none
  | .accept _ _ :: _ => none
  | .time _ :: _ => none

/-- The next step is the block's and consumes the event `e` of port `p` (R220). -/
def State.Serves (s : State) (p : Port) (e : RxEvent) : Prop :=
  s.CanServe ∧ (∃ choice, s.blockChoice = some choice ∧ s.choosePort choice = some p) ∧ (s.port p).rx.head? = some e

/-- `s` with the turn taken and the offered event of `p` consumed. -/
def State.consumed (s : State) (p : Port) : State :=
  { s.setPort p { s.port p with rx := (s.port p).rx.tail } with agenda := s.agenda.tail, draws := s.draws + 1 }

/-- The operands of a BuildCanFrame or of one of its aliases (R127, R128); none for any other instruction. -/
def buildOps (i : Instr) : Option BuildOperands :=
  match i with
  | .cmdBuild ops | .cmdUnknown0F13 _ ops | .cmdUnknown17FF _ ops => some ops
  | .hs | .cmdTimesync | .cmdCanparams | .cmdDevinfo | .cmdKeepalive | .cmdNumbuses | .cmdExtbuses | .stray _ => none
  | .rsvd02 | .rsvd03 | .rsvd04 | .rsvd05 | .rsvd08 | .rsvd0A | .rsvd0B | .rsvd0E | .rsvd14 | .rsvd15 | .rsvd16 => none
  | .adpData _ _ | .adpRemote _ _ => none

/-- `CPS` is one of the 44 legal values, and a payload in progress has the length its header byte asks for (R21, R125). -/
def State.cpsLegal (s : State) : Bool :=
  match s.cps with
  | .idle => true
  | .cmdid => true
  | .hdr _ => true
  | .pay k n => k.val < n.val && n == payloadLen s.cbuf[5]

/-- While operands are read, the identifier kept by the model is one that takes operands (log entry 8). -/
def State.latchLegal (s : State) : Bool :=
  match s.cps with
  | .idle => true
  | .cmdid => true
  | .hdr _ => (decodeCommand s.cidLatch).isNone
  | .pay _ _ => (decodeCommand s.cidLatch).isNone

/-- `OUTQ` holds at most 20 bytes, for a transmit port that exists (R26, R53). -/
def State.outqLegal (s : State) : Bool :=
  match s.outq with
  | .empty => true
  | .holding p _ rest => rest.length ≤ 19 && s.live p

/-- No event that stops the block is recorded (R31, R250). -/
def State.noStopRecorded (s : State) : Bool :=
  s.evlog.all fun e => !(e.code == 5) &&
    !(e.code == 6 && s.cfg.reservedPolicy == .fault) && !(e.code == 7 && s.cfg.unroutablePolicy == .fault)

/-- `STATUS` has left `RUN` exactly when an event that stops the block is recorded, and then `CAUSE` and the end of `EVLOG`
hold it (R30, R253, R254). -/
def State.stopLegal (s : State) : Bool :=
  match s.status with
  | .run => s.noStopRecorded
  | .halted => s.cause.code == 5 && s.evlog.getLast? == some s.cause
  | .faulted => ((s.cause.code == 6 && s.cfg.reservedPolicy == .fault) ||
      (s.cause.code == 7 && s.cfg.unroutablePolicy == .fault)) && s.evlog.getLast? == some s.cause

/-- What every state a run reaches from reset satisfies. -/
structure State.Inv (s : State) : Prop where
  /-- `MODE` is never COMMAND (R25) -/
  mode_ne_command : s.mode ≠ .command
  cps_legal : s.cpsLegal = true
  latch_legal : s.latchLegal = true
  outq_legal : s.outqLegal = true
  stop_legal : s.stopLegal = true

/-- `t` is reached from `s` by steps that answer a next state. -/
inductive Reaches : State → State → Prop where
  | refl (s : State) : Reaches s s
  | tail (s t u : State) : Reaches s t → step t = .next u → Reaches s u

/-- `s` with one turn to come. -/
def State.underTurn (s : State) (x : Turn) : State := { s with agenda := [x] }

/-- An infinite run: at every step the turn that `turns` gives is taken, of the block or of an environment agent (R8, R220). -/
def IsRun (turns : Nat → Turn) (σ : Nat → State) : Prop :=
  ∀ n, step ((σ n).underTurn (turns n)) = .next (σ (n + 1))

/-- At step `n` of a run the block chooses port `p` (R220). -/
def ChosenAt (turns : Nat → Turn) (σ : Nat → State) (n : Nat) (p : Port) : Prop :=
  ∃ e, ((σ n).underTurn (turns n)).Serves p e

/-- Weak fairness (R220, R296, D19): in a run in which the block goes on choosing, a port that offers an event continuously is
eventually chosen. Where output stalls the block makes no choice, which R52 and R285 allow, and fairness asks nothing. -/
def WeaklyFair (turns : Nat → Turn) (σ : Nat → State) : Prop :=
  ∀ (p : Port) (n : Nat), (∀ k, n ≤ k → (σ k).readyPort p = true) →
    (∀ k, n ≤ k → ∃ j q, k ≤ j ∧ ChosenAt turns σ j q) → ∃ k, n ≤ k ∧ ChosenAt turns σ k p

/-- The block has a turn again and again. -/
def BlockKeepsMoving (turns : Nat → Turn) : Prop := ∀ k, ∃ j q, k ≤ j ∧ turns j = .block q

/-- The environment's duty for progress (R296): a port that output waits for is eventually ready when the block has its turn. -/
def EventuallyAccepts (turns : Nat → Turn) (σ : Nat → State) : Prop :=
  ∀ (k : Nat) (p : Port) (x : Byte) (xs : List Byte), (σ k).outq = .holding p x xs →
    ∃ j q, k ≤ j ∧ turns j = .block q ∧ ((σ j).port p).tx = .ready

/-- `k` steps of the machine, stopping at the first that answers no next state. -/
def State.run (k : Nat) (s : State) : Host.Outcome State Fault Refusal := Host.Core.run Sys2Proof.core k s

/-- A good state of a run: the model gives it a meaning (R254: "`STATUS ≠ FAULTED`"). -/
def State.Good (s : State) : Prop := s.status ≠ .faulted

/-- The bytes of the transaction in progress on the client port that the block has consumed (R21, R22). -/
def State.clientBytes (s : State) : List Byte :=
  match s.cps with
  | .idle => []
  | .cmdid => [0xF1]
  | .hdr k => [0xF1, s.cidLatch] ++ s.cbuf.toList.take k.val
  | .pay k _ => [0xF1, s.cidLatch] ++ s.cbuf.toList.take (6 + k.val)

/-- The bytes of the frame in progress on connection `c` that the block has consumed (R23). -/
def State.adapterBytes (s : State) (c : Conn) : List Byte := (s.adapterRx c).abuf.toList.take (s.adapterRx c).acnt.val

/-- How many bytes of `CBUF` have been written since `CPS` left IDLE (R22). -/
def Cps.written : Cps → Nat
  | .idle => 0
  | .cmdid => 0
  | .hdr k => k.val
  | .pay k _ => 6 + k.val

/-- The two states agree but for what no rule reads: `CBUF` and `ABUF[c]` bytes not yet written (R22, R23), and `CAUSE` while
`STATUS = RUN` (R30, I14). -/
structure State.AgreeOnLive (s t : State) : Prop where
  rest : t = { s with cbuf := t.cbuf, rx0 := t.rx0, rx1 := t.rx1, cause := t.cause }
  acnt : ∀ c, (t.adapterRx c).acnt = (s.adapterRx c).acnt
  cbuf : t.cbuf.toList.take s.cps.written = s.cbuf.toList.take s.cps.written
  abuf : ∀ c, t.adapterBytes c = s.adapterBytes c
  cause : s.status ≠ .run → t.cause = s.cause

/-- Two outcomes are of the same kind: next states related by `R`, or the same fault or refusal. -/
def SameOutcome (R : State → State → Prop) :
    Host.Outcome State Fault Refusal → Host.Outcome State Fault Refusal → Prop
  | .next s, .next t => R s t
  | .fault a, .fault b => a = b
  | .refused a, .refused b => a = b
  | _, _ => False

end Sys2Proof.Machine
end

