-- ==== Sys2Proof/Certificates/Slice0/Obligations.lean ====
section
/-! DEFINITION. The statements for the provers. Bytes of a result are written out here, not taken from the model's own
encoders; each docstring names the rule of spec/ it formalises. -/

open Sys2Proof Sys2Proof.Machine

/-! ## Encoding -/

/-- R70 to R82, R88: transactions written out from the spec's own notation decode to the instruction they stand for. -/
def Obligations.WordsWrittenFromTheSpecDecode : Prop :=
  decode (.client .init) [0xE7] = .ok (.hs, []) ∧
  decode (.client .binary) [0xE7] = .ok (.stray 0xE7, []) ∧
  decode (.client .init) [0xF1, 0x06] = .ok (.cmdCanparams, []) ∧
  decode (.client .init) [0xF1, 0x0E] = .ok (.rsvd0E, []) ∧
  decode (.client .init) [0xF1, 0x00, 0x01, 0x00, 0x00, 0x80, 0xFE, 0xF2, 0xAA, 0xBB] =
    .ok (.cmdBuild ⟨0x80000001, 0x3F, 2, 0xF, 2, [0xAA, 0xBB]⟩, []) ∧
  decode (.client .init) [0xF1, 0xF1, 0x34, 0x12, 0x00, 0x00, 0x00, 0x00] =
    .ok (.cmdUnknown17FF 0xF1 ⟨0x1234, 0, 0, 0, 0, []⟩, []) ∧
  decode (.adapter .a0) [0x82, 0x00, 0x00, 0x07, 0xFF, 0x11, 0x22, 0x00, 0x00, 0x00, 0x00, 0x00, 0x00] =
    .ok (.adpData .a0 ⟨true, 0, 2, 0x7FF, [0x11, 0x22, 0, 0, 0, 0, 0, 0]⟩, []) ∧
  decode (.adapter .a1) [0x74, 0x00, 0x00, 0x01, 0x23, 0x00, 0x00, 0x00, 0x00, 0x00, 0x00, 0x00, 0x00] =
    .ok (.adpRemote .a1 ⟨false, 3, 4, 0x123, [0, 0, 0, 0, 0, 0, 0, 0]⟩, [])

/-- R70: outside 0xF1, a byte read in IDLE is the handshake exactly when it is 0xE7 in `MODE = INIT`, and stray otherwise. -/
def Obligations.IdleByteIsHandshakeOrStray : Prop :=
  ∀ (m : Mode) (b : Byte) (rest : List Byte), b ≠ 0xF1#8 →
    decode (.client m) (b :: rest) = .ok (if b = 0xE7#8 ∧ m = .init then .hs else .stray b, rest)

/-- R72, R73, R76: the identifier selects the row, for all 256 identifiers. -/
def Obligations.IdentifierSelectsItsRow : Prop :=
  ∀ (m : Mode) (cid h0 h1 h2 h3 h4 h5 : Byte) (ps : List Byte), min (h5.toNat % 16) 8 ≤ ps.length →
    decode (.client m) (0xF1 :: cid :: h0 :: h1 :: h2 :: h3 :: h4 :: h5 :: ps) =
      let rest := h0 :: h1 :: h2 :: h3 :: h4 :: h5 :: ps
      let n := min (h5.toNat % 16) 8
      let ops : BuildOperands := ⟨h3 ++ h2 ++ h1 ++ h0, h4.extractLsb' 2 6, h4.extractLsb' 0 2, h5.extractLsb' 4 4,
        h5.extractLsb' 0 4, ps.take n⟩
      if cid = 0x00#8 then .ok (.cmdBuild ops, ps.drop n)
      else if cid = 0x01#8 then .ok (.cmdTimesync, rest)
      else if cid = 0x02#8 then .ok (.rsvd02, rest)
      else if cid = 0x03#8 then .ok (.rsvd03, rest)
      else if cid = 0x04#8 then .ok (.rsvd04, rest)
      else if cid = 0x05#8 then .ok (.rsvd05, rest)
      else if cid = 0x06#8 then .ok (.cmdCanparams, rest)
      else if cid = 0x07#8 then .ok (.cmdDevinfo, rest)
      else if cid = 0x08#8 then .ok (.rsvd08, rest)
      else if cid = 0x09#8 then .ok (.cmdKeepalive, rest)
      else if cid = 0x0A#8 then .ok (.rsvd0A, rest)
      else if cid = 0x0B#8 then .ok (.rsvd0B, rest)
      else if cid = 0x0C#8 then .ok (.cmdNumbuses, rest)
      else if cid = 0x0D#8 then .ok (.cmdExtbuses, rest)
      else if cid = 0x0E#8 then .ok (.rsvd0E, rest)
      else if cid.toNat ≤ 0x13 then .ok (.cmdUnknown0F13 cid ops, ps.drop n)
      else if cid = 0x14#8 then .ok (.rsvd14, rest)
      else if cid = 0x15#8 then .ok (.rsvd15, rest)
      else if cid = 0x16#8 then .ok (.rsvd16, rest)
      else .ok (.cmdUnknown17FF cid ops, ps.drop n)

/-- R79 to R82, R88, R191: an adapter frame is 13 bytes, its fields stand where the tables say, bit 6 of byte 0 selects the
row. -/
def Obligations.AdapterFieldsAreReadInPlace : Prop :=
  ∀ (c : Conn) (b0 b1 b2 b3 b4 : Byte) (p rest : List Byte), p.length = 8 →
    decode (.adapter c) ([b0, b1, b2, b3, b4] ++ p ++ rest) =
      let ops : AdapterOperands := ⟨b0.getLsbD 7, b0.extractLsb' 4 2, b0.extractLsb' 0 4, b1 ++ b2 ++ b3 ++ b4, p⟩
      .ok (if b0.getLsbD 6 then .adpRemote c ops else .adpData c ops, rest)

/-- Decode and encode agree: no bit of an encoding is dropped. -/
def Obligations.DecodeOfEncodeIsTheInstruction : Prop :=
  ∀ (src : Stream) (i : Instr) (rest : List Byte), i.wf = true → src.admits i = true →
    decode src (encode i ++ rest) = .ok (i, rest)

/-- Encode and decode agree: what is decoded is well-formed, belongs to the stream, and is the bytes it came from. -/
def Obligations.EncodeOfDecodeIsTheBytes : Prop :=
  ∀ (src : Stream) (bs rest : List Byte) (i : Instr), decode src bs = .ok (i, rest) →
    encode i ++ rest = bs ∧ i.wf = true ∧ src.admits i = true

/-- R84: no bytes are rejected but those that end inside a transaction, which more bytes complete. -/
def Obligations.RejectedBytesAreUnfinished : Prop :=
  ∀ (src : Stream) (bs : List Byte) (e : DecodeError), decode src bs = .error e →
    ∃ (more : List Byte) (i : Instr), more ≠ [] ∧ decode src (bs ++ more) = .ok (i, [])

/-- R56, R85: the length of every transaction. -/
def Obligations.EveryTransactionHasItsLength : Prop := ∀ i : Instr, Sys2Proof.Laws.EncodedLength.Statement i

/-! ## The step and the decoder -/

/-- R120, R124 to R127: when the bytes a client command has so far and the byte consumed make a whole transaction, the step is
exec of the instruction they decode to, after the byte is consumed and stored in `CBUF`. That the state still has the
identifier among those bytes is the model's choice (log entry 8), and so is exec at the last byte (log entry 12). -/
def Obligations.StepRunsTheDecodedClientTransaction : Prop :=
  ∀ (s : State) (b : Byte) (i : Instr), s.Inv → s.Serves .client (.byte b) →
    decode (.client s.mode) (s.clientBytes ++ [b]) = .ok (i, []) →
    ∃ B : Vector Byte 14, step s = exec i { s.consumed .client with cbuf := B } ∧
      B.toList.take (s.clientBytes.length - 1) = (s.clientBytes ++ [b]).drop 2 ∧
      B.toList.drop (s.clientBytes.length - 1) = s.cbuf.toList.drop (s.clientBytes.length - 1)

/-- R190, R191: the 13th byte of an adapter frame runs the instruction the 13 bytes decode to. That exec is of the last byte is
the reading of log entry 12. -/
def Obligations.StepRunsTheDecodedAdapterFrame : Prop :=
  ∀ (s : State) (c : Conn) (b : Byte) (i : Instr) (B : Vector Byte 13), s.Serves (.adapter c) (.byte b) →
    B.toList = s.adapterBytes c ++ [b] → decode (.adapter c) B.toList = .ok (i, []) →
    step s = exec i ((s.consumed (.adapter c)).setAdapterRx c ⟨12, B⟩)

/-- R21, R22, R123 to R126: a client byte that leaves the transaction unfinished is collected, and nothing else happens. That
the state keeps the identifier byte among the bytes collected is the model's choice (log entry 8): the hardware does not retain
it (R128). -/
def Obligations.UnfinishedClientBytesAreCollected : Prop :=
  ∀ (s : State) (b : Byte) (e : DecodeError), s.Inv → s.Serves .client (.byte b) →
    decode (.client s.mode) (s.clientBytes ++ [b]) = .error e →
    ∃ t, step s = .next t ∧ t.clientBytes = s.clientBytes ++ [b] ∧
      t = { s.consumed .client with cps := t.cps, cbuf := t.cbuf, cidLatch := t.cidLatch }

/-- R123: 0xF1 in IDLE opens a command in every `MODE`; in CMDID it is an identifier, of the unknown ones. -/
def Obligations.LeadByteOpensACommand : Prop :=
  ∀ s : State, s.Serves .client (.byte 0xF1#8) →
    (s.cps = .idle → step s = .next { s.consumed .client with cps := .cmdid }) ∧
    (s.cps = .cmdid → ∃ l, step s = .next { s.consumed .client with cps := .hdr 0, cidLatch := l })

/-- R124, R128: an identifier with operands opens the header; the model's own latch keeps it (log entry 8). -/
def Obligations.OperandIdentifierOpensTheHeader : Prop :=
  ∀ (s : State) (cid : Byte), s.Serves .client (.byte cid) → s.cps = .cmdid →
    (cid = 0x00#8 ∨ (0x0F ≤ cid.toNat ∧ cid.toNat ≤ 0x13) ∨ 0x17 ≤ cid.toNat) →
    step s = .next { s.consumed .client with cps := .hdr 0, cidLatch := cid }

/-- R125: a header byte is stored in `CBUF[k]`; the last one decides between completion and the payload. -/
def Obligations.HeaderByteIsStored : Prop :=
  ∀ (s : State) (k : Fin 6) (b : Byte), s.Serves .client (.byte b) → s.cps = .hdr k →
    let B := s.cbuf.set k.val b
    let n := min (b.toNat % 16) 8
    (∀ h : k.val < 5, step s = .next { s.consumed .client with cbuf := B, cps := .hdr ⟨k.val + 1, by omega⟩ }) ∧
    (k.val = 5 → 0 < n → step s = .next { s.consumed .client with cbuf := B, cps := .pay 0 ⟨n, by omega⟩ }) ∧
    (k.val = 5 → n = 0 →
      step s = exec (.cmdBuild ⟨s.cbuf[3] ++ s.cbuf[2] ++ s.cbuf[1] ++ s.cbuf[0], s.cbuf[4].extractLsb' 2 6,
        s.cbuf[4].extractLsb' 0 2, b.extractLsb' 4 4, b.extractLsb' 0 4, []⟩) { s.consumed .client with cbuf := B })

/-- R126: a payload byte is stored in `CBUF[6 + k]`; the last one completes the command, with the bytes stored. -/
def Obligations.PayloadByteIsStored : Prop :=
  ∀ (s : State) (k : Fin 8) (n : Fin 9) (b : Byte), s.Serves .client (.byte b) → s.cps = .pay k n →
    let B := s.cbuf.set (6 + k.val) b
    (∀ h : k.val + 1 < n.val,
      step s = .next { s.consumed .client with cbuf := B, cps := .pay ⟨k.val + 1, by omega⟩ n }) ∧
    (n.val ≤ k.val + 1 →
      step s = exec (.cmdBuild ⟨s.cbuf[3] ++ s.cbuf[2] ++ s.cbuf[1] ++ s.cbuf[0], s.cbuf[4].extractLsb' 2 6,
        s.cbuf[4].extractLsb' 0 2, s.cbuf[5].extractLsb' 4 4, s.cbuf[5].extractLsb' 0 4,
        (B.toList.drop 6).take n.val⟩) { s.consumed .client with cbuf := B })

/-- R190: a byte of an adapter frame is stored in `ABUF[c][ACNT[c]]`; the first twelve only count. -/
def Obligations.AdapterByteIsStored : Prop :=
  ∀ (s : State) (c : Conn) (b : Byte), s.Serves (.adapter c) (.byte b) →
    let r := s.adapterRx c
    (∀ h : r.acnt.val < 12, step s =
      .next ((s.consumed (.adapter c)).setAdapterRx c ⟨⟨r.acnt.val + 1, by omega⟩, r.abuf.set r.acnt.val b⟩)) ∧
    (r.acnt = 12 → ∃ i, decode (.adapter c) (r.abuf.set 12 b).toList = .ok (i, []) ∧
      step s = exec i ((s.consumed (.adapter c)).setAdapterRx c ⟨12, r.abuf.set 12 b⟩))

/-- R152, R153: a read error on `C?` records `CPS`, discards the command in progress, and changes nothing else. -/
def Obligations.ClientReadErrorDropsTheCommand : Prop :=
  ∀ s : State, s.Serves .client .err →
    step s = .next { s.consumed .client with evlog := s.evlog ++ [.clientReadError s.cps], cps := .idle }

/-- R195: a read error on `Ac?` records `ACNT[c]`, discards the frame in progress, and changes nothing else. -/
def Obligations.AdapterReadErrorDropsTheFrame : Prop :=
  ∀ (s : State) (c : Conn), s.Serves (.adapter c) .err →
    step s = .next (({ s.consumed (.adapter c) with
      evlog := s.evlog ++ [.adapterReadError c (s.adapterRx c).acnt] } : State).setAdapterRx c
        ⟨0, (s.adapterRx c).abuf⟩)

/-- R120 to R127, R190: byte by byte, from an idle parser, a transaction offered whole runs, at its last byte, to the meaning of
its instruction; up to there only the receive path of its port has moved. The agenda, the count of draws and the latch of the
identifier are the model's choice (log entries 1, 2, 8). -/
def Obligations.TransactionRunsToItsMeaning : Prop :=
  (∀ (s : State) (i : Instr) (es : List RxEvent) (ts : List Turn), s.CanServe → s.cps = .idle → i.wf = true →
    Stream.admits (.client s.mode) i = true →
    s.portC.rx = (encode i).map .byte ++ es →
    s.agenda = List.replicate (encode i).length (.block .client) ++ ts →
    ∃ t, s.run (encode i).length = exec i t ∧
      t = { s with
        cps := t.cps, cbuf := t.cbuf, cidLatch := t.cidLatch
        portC := { s.portC with rx := es }, agenda := ts, draws := s.draws + (encode i).length }) ∧
  (∀ (s : State) (c : Conn) (i : Instr) (es : List RxEvent) (ts : List Turn), s.CanServe →
    (s.adapterRx c).acnt = 0 → (c = .a1 → s.cfg.numBuses = .two) → i.wf = true →
    Stream.admits (.adapter c) i = true →
    (s.port (.adapter c)).rx = (encode i).map .byte ++ es →
    s.agenda = List.replicate (encode i).length (.block (.adapter c)) ++ ts →
    ∃ B : Vector Byte 13, B.toList = encode i ∧ s.run (encode i).length =
      exec i ({ s.setPort (.adapter c) { s.port (.adapter c) with rx := es } with
        agenda := ts, draws := s.draws + (encode i).length }.setAdapterRx c ⟨12, B⟩))

/-! ## The meanings -/

/-- R121: the handshake sets `MODE` to BINARY from INIT; it changes nothing else, and nothing at all from another mode. -/
def Obligations.HandshakeSetsBinaryFromInit : Prop :=
  ∀ s : State, s.CanServe →
    (s.mode = .init → exec .hs s = .next { s with mode := .binary }) ∧ (s.mode ≠ .init → exec .hs s = .next s)

/-- R122: a stray byte changes no state. -/
def Obligations.StrayByteChangesNothing : Prop :=
  ∀ (s : State) (b : Byte), s.CanServe → exec (.stray b) s = .next s

/-- R127, R222, R224 (and R128 for the aliases): what a BuildCanFrame does, in full. An identifier with bit 30 or 29 set is
recorded; a frame for an absent A1 goes by the policy; any other goes to the connection `ROUTE_MAP` selects, as 13 bytes. -/
def Obligations.BuildCanFrameIsRoutedOrRecorded : Prop :=
  ∀ (s : State) (i : Instr) (ops : BuildOperands), s.CanServe → buildOps i = some ops → i.wf = true →
    exec i s =
      let ext : Bool := 0x7FF#32 < ops.raw
      let id : Word32 := if ext then ops.raw &&& 0x7FFFFFFF else ops.raw
      let dest : Conn := if ops.bus = 0 then s.cfg.routeMap.bus0 else if ops.bus = 1 then s.cfg.routeMap.bus1
        else if ops.bus = 2 then s.cfg.routeMap.bus2 else s.cfg.routeMap.bus3
      if ops.raw.getLsbD 30 || ops.raw.getLsbD 29 then
        .next { s with cps := .idle, evlog := s.evlog ++ [.idTooLongClient ops.raw] }
      else if dest = .a1 ∧ s.cfg.numBuses = .one then
        match s.cfg.unroutablePolicy with
        | .drop => .next { s with cps := .idle, evlog := s.evlog ++ [.unroutable ops.bus] }
        | .fault => .next { s with
            cps := .idle, evlog := s.evlog ++ [.unroutable ops.bus], status := .faulted, cause := .unroutable ops.bus }
      else .next { s with
        cps := .idle
        outq := .holding (.adapter dest) ((if ext then 0x80 else 0x00) + BitVec.ofNat 8 ops.data.length)
          ([id.extractLsb' 24 8, id.extractLsb' 16 8, id.extractLsb' 8 8, id.extractLsb' 0 8] ++ ops.data ++
            List.replicate (8 - ops.data.length) 0x00) }

/-- R129, R160: TimeSync answers `f1 01` and the elapsed microseconds modulo 2^32, little-endian. -/
def Obligations.TimeSyncAnswersElapsedMicroseconds : Prop :=
  ∀ s : State, s.CanServe → exec .cmdTimesync s = .next { s with
    cps := .idle
    outq := .holding .client 0xF1 [0x01, s.timer.extractLsb' 0 8, s.timer.extractLsb' 8 8, s.timer.extractLsb' 16 8,
      s.timer.extractLsb' 24 8] }

/-- R130, R161: GetCanBusParams answers the baud once for each bus. -/
def Obligations.CanBusParamsAnswersTheBaud : Prop :=
  ∀ s : State, s.CanServe → exec .cmdCanparams s =
    let baud : List Byte := [s.cfg.baud.extractLsb' 0 8, s.cfg.baud.extractLsb' 8 8, s.cfg.baud.extractLsb' 16 8,
      s.cfg.baud.extractLsb' 24 8]
    .next { s with
      cps := .idle
      outq := .holding .client 0xF1 ([0x06, 0x01] ++ baud ++ (if s.cfg.numBuses = .two then [0x01] ++ baud else [])) }

/-- R131, R162: GetDevInfo answers 0xF1 and `DEVINFO`, which reset loads as `07 6a 02 20 00 00 00`. -/
def Obligations.DevInfoAnswersTheDeviceBytes : Prop :=
  (∀ s : State, s.CanServe → exec .cmdDevinfo s = .next { s with
    cps := .idle, outq := .holding .client 0xF1 s.cfg.devInfo.toList }) ∧
  State.reset.cfg.devInfo.toList = [0x07, 0x6A, 0x02, 0x20, 0x00, 0x00, 0x00]

/-- R132, R163: KeepAlive answers `f1 09 de ad`. -/
def Obligations.KeepAliveAnswersDeAd : Prop :=
  ∀ s : State, s.CanServe → exec .cmdKeepalive s = .next { s with
    cps := .idle, outq := .holding .client 0xF1 [0x09, 0xDE, 0xAD] }

/-- R133, R164: GetNumBuses answers `f1 0c` and the number of buses. -/
def Obligations.NumBusesAnswersTheBusCount : Prop :=
  ∀ s : State, s.CanServe → exec .cmdNumbuses s = .next { s with
    cps := .idle, outq := .holding .client 0xF1 [0x0C, if s.cfg.numBuses = .two then 0x02 else 0x01] }

/-- R134, R165: GetExtBuses answers `f1 0d` and fifteen zero bytes. -/
def Obligations.ExtBusesAnswersZeros : Prop :=
  ∀ s : State, s.CanServe → exec .cmdExtbuses s = .next { s with
    cps := .idle, outq := .holding .client 0xF1 ([0x0D] ++ List.replicate 15 0x00) }

/-- R140 to R151: each reserved command, under `ignore` and under `fault`. -/
def Obligations.ReservedCommandsFollowThePolicy : Prop :=
  ∀ (s : State) (i : Instr) (cid : Byte), s.CanServe →
    (i, cid) ∈ ([(.rsvd02, 0x02), (.rsvd03, 0x03), (.rsvd04, 0x04), (.rsvd05, 0x05), (.rsvd08, 0x08), (.rsvd0A, 0x0A),
      (.rsvd0B, 0x0B), (.rsvd0E, 0x0E), (.rsvd14, 0x14), (.rsvd15, 0x15), (.rsvd16, 0x16)] : List (Instr × Byte)) →
    (s.cfg.reservedPolicy = .ignore →
      exec i s = .next { s with cps := .idle, evlog := s.evlog ++ [.reservedCommand cid] }) ∧
    (s.cfg.reservedPolicy = .fault →
      exec i s = .next { s with
        evlog := s.evlog ++ [.reservedCommand cid], status := .faulted, cause := .reservedCommand cid })

/-- R192, R103, R170 to R173, R194: what an adapter Data frame does, in full: the identifier check first, then the length, then
telemetry to the client with bus c. -/
def Obligations.AdapterDataBecomesTelemetry : Prop :=
  ∀ (s : State) (c : Conn) (ops : AdapterOperands), s.CanServe → ops.wf = true →
    exec (.adpData c ops) s =
      let t := s.setAdapterRx c ⟨0, (s.adapterRx c).abuf⟩
      let n := ops.dlc.toNat
      if (if ops.ext then 0x1FFFFFFF else 0x7FF) < ops.id.toNat then
        .next { t with evlog := s.evlog ++ [.idTooLongAdapter c] }
      else if 8 < n then .next { t with evlog := s.evlog ++ [.dataTooLong c] }
      else .next { t with
        outq := .holding .client 0xF1 ([0x00] ++
          [s.timer.extractLsb' 0 8, s.timer.extractLsb' 8 8, s.timer.extractLsb' 16 8, s.timer.extractLsb' 24 8] ++
          [ops.id.extractLsb' 0 8, ops.id.extractLsb' 8 8, ops.id.extractLsb' 16 8,
            ops.id.extractLsb' 24 8 ||| (if ops.ext then 0x80 else 0x00)] ++
          [(if c = .a1 then 0x10 else 0x00) + BitVec.ofNat 8 n] ++ ops.payload.take n ++ [0x00]) }

/-- R193, R194, R171: an adapter Remote frame sends nothing; the event says whether it was valid. -/
def Obligations.AdapterRemoteSendsNothing : Prop :=
  ∀ (s : State) (c : Conn) (ops : AdapterOperands), s.CanServe → ops.wf = true →
    exec (.adpRemote c ops) s = .next { s.setAdapterRx c ⟨0, (s.adapterRx c).abuf⟩ with
      evlog := s.evlog ++ [
        if (if ops.ext then 0x1FFFFFFF else 0x7FF) < ops.id.toNat then .idTooLongAdapter c
        else if 8 < ops.dlc.toNat then .dataTooLong c
        else .telemetryReject c] }

/-- The frame of the meanings. No meaning touches `CBUF`, `ABUF`, `TIMER`, the configuration, a port, or the model's own
fields; each family touches only what its rules list. -/
def Obligations.MeaningsKeepWhatTheirRulesDoNotList : Prop :=
  ∀ (i : Instr) (s t : State), s.CanServe → i.wf = true → exec i s = .next t →
    t = { s with
      mode := t.mode, cps := t.cps, outq := t.outq, status := t.status, cause := t.cause, evlog := t.evlog
      rx0 := { s.rx0 with acnt := t.rx0.acnt }, rx1 := { s.rx1 with acnt := t.rx1.acnt } } ∧
    (i = .hs → t = { s with mode := t.mode }) ∧
    (∀ b, i = .stray b → t = s) ∧
    ((buildOps i).isSome →
      t = { s with cps := .idle, outq := t.outq, status := t.status, cause := t.cause, evlog := t.evlog }) ∧
    (i ∈ [.cmdTimesync, .cmdCanparams, .cmdDevinfo, .cmdKeepalive, .cmdNumbuses, .cmdExtbuses] →
      t = { s with cps := .idle, outq := t.outq }) ∧
    (i ∈ [.rsvd02, .rsvd03, .rsvd04, .rsvd05, .rsvd08, .rsvd0A, .rsvd0B, .rsvd0E, .rsvd14, .rsvd15, .rsvd16] →
      t = { s with cps := t.cps, status := t.status, cause := t.cause, evlog := t.evlog }) ∧
    (∀ c ops, i = .adpData c ops ∨ i = .adpRemote c ops →
      t = { s.setAdapterRx c ⟨0, (s.adapterRx c).abuf⟩ with outq := t.outq, evlog := t.evlog })

/-- R230: a transaction produces at most one service, for one port: a BuildCanFrame for an adapter, any other for the client;
R26: of at most 20 bytes. -/
def Obligations.TransactionProducesOneServiceForOnePort : Prop :=
  ∀ (i : Instr) (s t : State) (p : Port) (x : Byte) (xs : List Byte), s.CanServe → i.wf = true →
    exec i s = .next t → t.outq = .holding p x xs →
    (p ≠ .client ↔ (buildOps i).isSome) ∧ xs.length ≤ 19 ∧ t.evlog = s.evlog ∧ t.status = s.status

/-- R101, R102, R103: the frame constructors make exactly the valid frames, and report the identifier first. -/
def Obligations.ConstructorsMakeExactlyTheValidFrames : Prop :=
  (∀ (bus : BitVec 2) (id : Word32) (ext : Bool) (data : List Byte), newData bus id ext data =
    if (if ext then 0x1FFFFFFF else 0x7FF) < id.toNat then .error .idTooLong
    else if 8 < data.length then .error .dataTooLong else .ok (.data bus id ext data)) ∧
  (∀ (bus : BitVec 2) (id : Word32) (ext : Bool) (dlc : BitVec 4), newRemote bus id ext dlc =
    if (if ext then 0x1FFFFFFF else 0x7FF) < id.toNat then .error .idTooLong
    else if 8 < dlc.toNat then .error .dataTooLong else .ok (.remote bus id ext dlc))

/-- R198: decoding the adapter bytes of a valid frame gives the frame on the connection's bus; and encoding a decoded frame
gives its bytes back exactly when the ignored bits and bytes were zero. -/
def Obligations.AdapterCodecRoundTrip : Prop :=
  (∀ (c : Conn) (f : Frame), f.valid = true →
    ∃ i, decode (.adapter c) (adapterEncode f) = .ok (i, []) ∧
      frameOf i = some (.ok (f.onBus (if c = .a1 then 1 else 0)))) ∧
  (∀ (c : Conn) (B : List Byte) (i : Instr) (f : Frame), decode (.adapter c) B = .ok (i, []) →
    frameOf i = some (.ok f) →
    (adapterEncode f = B ↔ (B.getD 0 0).extractLsb' 4 2 = 0 ∧
      ∀ j, 5 + (f.payload.getD []).length ≤ j → j < 13 → B.getD j 0 = 0))

/-- R291: Remote frames cross in neither direction. -/
def Obligations.RemoteFramesCrossInNeitherDirection : Prop :=
  (∀ (c : Conn) (ops : AdapterOperands) (s t : State), s.CanServe → exec (.adpRemote c ops) s = .next t →
    t.outq = .empty) ∧
  (∀ (i : Instr) (s t : State) (p : Port) (x : Byte) (xs : List Byte), s.CanServe → (buildOps i).isSome →
    exec i s = .next t → t.outq = .holding p x xs → x.getLsbD 6 = false)

/-- R294: under `ROUTE_AS_WRITTEN` A0 never receives a client frame, and with one bus no client frame reaches an adapter. -/
def Obligations.RoutedAsWrittenNothingReachesA0 : Prop :=
  ∀ (i : Instr) (s t : State), s.CanServe → (buildOps i).isSome → s.cfg.routeMap = ⟨.a1, .a1, .a1, .a1⟩ →
    exec i s = .next t →
    (∀ x xs, t.outq ≠ .holding (.adapter .a0) x xs) ∧ (s.cfg.numBuses = .one → t.outq = .empty)

/-! ## The block's step -/

/-- R221, R253: draining `OUTQ`: a ready port takes one byte, a write error halts the block with `OUTQ` kept. That a turn on a
port that is not ready answers the state unchanged is the model's choice for the stall of R221 (log entry 9). -/
def Obligations.TransmitStepMovesOneByteOrHalts : Prop :=
  ∀ (s : State) (q p : Port) (x : Byte) (xs : List Byte) (ts : List Turn), s.status = .run →
    s.agenda = .block q :: ts → s.outq = .holding p x xs →
    ((s.port p).tx = .ready → step s = .next ({ s with
      agenda := ts
      outq := match xs with
        | [] => .empty
        | y :: ys => .holding p y ys }.setPort p { s.port p with sent := (s.port p).sent ++ [x] })) ∧
    ((s.port p).tx = .error → step s = .next { s with
      agenda := ts, evlog := s.evlog ++ [.writeError p], status := .halted, cause := .writeError p }) ∧
    ((s.port p).tx = .notReady → step s = .next { s with agenda := ts })

/-- R26, R285: while `OUTQ` holds output, no step consumes input or moves a receive path. -/
def Obligations.PendingOutputBlocksAllInput : Prop :=
  ∀ s t : State, s.outq ≠ .empty → step s = .next t →
    t.cps = s.cps ∧ t.cbuf = s.cbuf ∧ t.mode = s.mode ∧ t.rx0 = s.rx0 ∧ t.rx1 = s.rx1 ∧
      ∀ p, ∃ more, (t.port p).rx = (s.port p).rx ++ more

/-- R56, R59, R221: a service is written whole, in order, before any input: as many turns of the block as it has bytes deliver
exactly its bytes, and nothing else changes. The agenda that lists the turns is the model's choice (log entry 1). -/
def Obligations.ServiceIsWrittenWhole : Prop :=
  ∀ (s : State) (p : Port) (x : Byte) (xs : List Byte) (qs : List Port) (ts : List Turn), s.status = .run →
    s.outq = .holding p x xs → (s.port p).tx = .ready → qs.length = xs.length + 1 →
    s.agenda = qs.map .block ++ ts →
    s.run (xs.length + 1) = .next ({ s with outq := .empty, agenda := ts }.setPort p
      { s.port p with sent := (s.port p).sent ++ x :: xs })

/-- R220, R53: every live port that offers an event may be the one served, and serving it consumes that event only.
That a turn names the port is the model's choice (log entries 1, 2). -/
def Obligations.EveryReadyPortMayBeServed : Prop :=
  ∀ (s : State) (p : Port) (e : RxEvent) (es : List RxEvent) (ts : List Turn), s.CanServe →
    (p = .adapter .a1 → s.cfg.numBuses = .two) → (s.port p).rx = e :: es → s.agenda = .block p :: ts →
    ∃ t, step s = .next t ∧ (t.port p).rx = es ∧ ∀ q, q ≠ p → t.port q = s.port q

/-- R220, R229: where no turn names a port, the block serves one that is live and offers an event, whichever the free choice
takes. That an empty agenda gives the block a turn is the model's choice (log entries 1, 2). -/
def Obligations.BlockServesSomeReadyPort : Prop :=
  ∀ (s : State) (p : Port), s.CanServe → s.agenda = [] → (p = .adapter .a1 → s.cfg.numBuses = .two) →
    (s.port p).rx ≠ [] →
    ∃ q e t, (q = .adapter .a1 → s.cfg.numBuses = .two) ∧ s.Serves q e ∧ step s = .next t ∧
      (s.port q).rx = e :: (t.port q).rx

/-- R53, R227: with one bus no step consumes from `A1?` or transmits on `A1!`. -/
def Obligations.AbsentConnectionIsNeverUsed : Prop :=
  ∀ s t : State, s.Inv → s.cfg.numBuses = .one → step s = .next t →
    (∃ more, t.portA1.rx = s.portA1.rx ++ more) ∧ t.portA1.sent = s.portA1.sent ∧ t.rx1 = s.rx1

/-- R220, R265: with nothing offered on a live port and `OUTQ` empty, a turn of the block changes no state. That waiting is a
step at all is the model's choice (log entry 9). -/
def Obligations.BlockWaitsWithStateUnchanged : Prop :=
  ∀ (s : State) (q : Port) (ts : List Turn), s.CanServe → s.portC.rx = [] → s.portA0.rx = [] →
    (s.cfg.numBuses = .two → s.portA1.rx = []) → s.agenda = .block q :: ts → step s = .next { s with agenda := ts }

/-- R253, R254, R265: in HALTED and in FAULTED no step of the block is enabled. The faults that say so are the model's choice
(log entry 10). -/
def Obligations.StoppedBlockTakesNoStep : Prop :=
  ∀ (s : State) (choice : Option Port), s.blockChoice = some choice →
    (s.status = .halted → step s = .fault .halted) ∧ (s.status = .faulted → step s = .fault .faulted)

/-- R265: no step leaves HALTED or FAULTED, or changes anything of the block there but `TIMER`, which the time source writes. -/
def Obligations.StopIsNeverLeft : Prop :=
  ∀ s t : State, s.status ≠ .run → Reaches s t →
    t = { s with timer := t.timer, portC := t.portC, portA0 := t.portA0, portA1 := t.portA1, agenda := t.agenda }

/-- R8, R51, R52, R27, R53, R60: an environment agent's move touches only its port, or `TIMER`, and with one bus there is no
peer to move A1. The agenda that lists the moves is the model's choice (log entries 1, 7, 11). -/
def Obligations.EnvironmentActsOnlyThroughPortsAndTimer : Prop :=
  ∀ (s : State) (ts : List Turn),
    (∀ p e, s.agenda = .offer p e :: ts → (p = .adapter .a1 → s.cfg.numBuses = .two) →
      step s = .next ({ s with agenda := ts }.setPort p { s.port p with rx := (s.port p).rx ++ [e] })) ∧
    (∀ p c, s.agenda = .accept p c :: ts → (p = .adapter .a1 → s.cfg.numBuses = .two) →
      step s = .next ({ s with agenda := ts }.setPort p { s.port p with tx := c })) ∧
    (∀ e, s.agenda = .offer (.adapter .a1) e :: ts → s.cfg.numBuses = .one → step s = .next { s with agenda := ts }) ∧
    (∀ c, s.agenda = .accept (.adapter .a1) c :: ts → s.cfg.numBuses = .one → step s = .next { s with agenda := ts }) ∧
    (∀ v, s.agenda = .time v :: ts → s.timer.toNat ≤ v.toNat → step s = .next { s with agenda := ts, timer := v })

/-- R34, R252: serving one port leaves the partial transactions of the other ports, and their contents, untouched. -/
def Obligations.PortsKeepTheirOwnPartialInput : Prop :=
  ∀ (s t : State) (p : Port) (e : RxEvent), s.Serves p e → step s = .next t →
    (p ≠ .client → t.cps = s.cps ∧ t.cbuf = s.cbuf ∧ t.mode = s.mode) ∧
    (∀ c, p ≠ .adapter c → t.adapterRx c = s.adapterRx c) ∧ ∀ q, q ≠ p → t.port q = s.port q

/-! ## Invariants and whole-machine rules -/

/-- R25: `MODE` changes only from INIT to BINARY, by the byte 0xE7 consumed in IDLE. -/
def Obligations.ModeChangesOnlyByTheHandshake : Prop :=
  ∀ s t : State, step s = .next t → t.mode ≠ s.mode →
    s.mode = .init ∧ t.mode = .binary ∧ s.cps = .idle ∧ s.Serves .client (.byte 0xE7#8)

/-- R27: no step lowers `TIMER`, and no turn of the block changes it. That a draw below the old value is no move is the model's
choice (log entry 11). -/
def Obligations.TimerNeverDecreases : Prop :=
  ∀ s t : State, step s = .next t → s.timer.toNat ≤ t.timer.toNat ∧ (s.blockChoice ≠ none → t.timer = s.timer)

/-- R32, R62: the configuration registers are never written. -/
def Obligations.ConfigurationIsNeverWritten : Prop := ∀ s t : State, Reaches s t → t.cfg = s.cfg

/-- R31, R256 (b): `EVLOG` is append-only, and a step raises at most one event. -/
def Obligations.StepRecordsAtMostOneEvent : Prop :=
  ∀ s t : State, step s = .next t → t.evlog = s.evlog ∨ ∃ e, t.evlog = s.evlog ++ [e]

/-- The invariant of `State.Inv` is kept by every step, from every state that has it. Its clause on the latch of the identifier
is about the model's own field (log entry 8). -/
def Obligations.StepKeepsTheInvariant : Prop := ∀ s t : State, s.Inv → step s = .next t → t.Inv

/-- The invariant holds after reset, whatever the parameters. Reset of any state gives the values of R280 and leaves `CBUF`,
`ABUF`, `CAUSE`, every port's contents and the model's own fields as they were, which is the model's choice (log entry 18); so
the invariant holds there too. -/
def Obligations.ResetMeetsTheInvariant : Prop :=
  State.reset.Inv ∧ (∀ p : Params, (State.resetWith p).Inv) ∧
  ∀ (p : Params) (s : State), (s.applyReset p).Inv ∧ s.applyReset p = { s with
    cfg := p, mode := .init, cps := .idle, rx0 := ⟨0, s.rx0.abuf⟩, rx1 := ⟨0, s.rx1.abuf⟩, outq := .empty, timer := 0
    status := .run, evlog := [] }

/-- R254: under the policies `ignore` and `drop` no run enters FAULTED. -/
def Obligations.NoRunFaultsUnderIgnoreAndDrop : Prop :=
  ∀ s t : State, s.cfg.reservedPolicy = .ignore → s.cfg.unroutablePolicy = .drop → s.Good → Reaches s t → t.Good

/-- R154: no byte the block emits depends on `MODE`: two states that differ in `MODE` alone run alike, to states that differ in
`MODE` alone. -/
def Obligations.ModeIsInvisibleAtThePorts : Prop :=
  ∀ (k : Nat) (s : State) (m : Mode),
    SameOutcome (fun a b => b = { a with mode := b.mode }) (s.run k) (({ s with mode := m } : State).run k)

/-- R22, R23, R30: bytes of `CBUF` and `ABUF` not written yet, and `CAUSE` while `STATUS = RUN`, are never read: states that
agree but for those run alike. -/
def Obligations.UnwrittenBytesAreNeverRead : Prop :=
  ∀ (k : Nat) (s t : State), s.AgreeOnLive t → SameOutcome State.AgreeOnLive (s.run k) (t.run k)

/-- R128: no result depends on the identifier byte, which only the model keeps (log entry 8). -/
def Obligations.IdentifierIsNotRetained : Prop :=
  ∀ (k : Nat) (s : State) (cid : Byte),
    SameOutcome (fun a b => b = { a with cidLatch := b.cidLatch }) (s.run k) (({ s with cidLatch := cid } : State).run k)

/-- R280: the values reset gives, for all parameters, and that the hardware's reset state is that of its parameters. -/
def Obligations.ResetGivesTheStatedValues : Prop :=
  (∀ p : Params, (State.resetWith p).cfg = p ∧ (State.resetWith p).mode = .init ∧ (State.resetWith p).cps = .idle ∧
    (∀ c, ((State.resetWith p).adapterRx c).acnt = 0) ∧ (State.resetWith p).outq = .empty ∧
    (State.resetWith p).timer = 0 ∧ (State.resetWith p).status = .run ∧ (State.resetWith p).evlog = []) ∧
  State.reset = State.resetWith Config.params

/-- R220, R296, D19: in a weakly fair run in which the block keeps moving and the environment eventually accepts output, every
event offered on a live port is eventually consumed. The agenda of turns is the model's choice (log entries 1, 2). -/
def Obligations.OfferedEventIsEventuallyServed : Prop :=
  ∀ (turns : Nat → Turn) (σ : Nat → State) (n : Nat) (p : Port) (e : RxEvent), IsRun turns σ → BlockKeepsMoving turns →
    EventuallyAccepts turns σ → WeaklyFair turns σ → (p = .adapter .a1 → (σ n).cfg.numBuses = .two) →
    ((σ n).port p).rx.head? = some e → ∃ k, n ≤ k ∧ ((σ k).underTurn (turns k)).Serves p e
end

