-- ==== Sys2Proof/Laws/Decode.lean ====
section
/-! SUPPORT. The decoder's tables and the decoder on whole transactions. -/

namespace Sys2Proof

/-- The identifiers that take operands: command 0 and the unknown ones (R72). -/
theorem decodeCommand_none_iff (cid : Byte) :
    decodeCommand cid = none ↔ cid = 0x00#8 ∨ (0x0F ≤ cid.toNat ∧ cid.toNat ≤ 0x13) ∨ 0x17 ≤ cid.toNat := by
  revert cid
  decide

/-- The two command tables agree: an identifier with no operands is encoded back to itself (R72). -/
theorem encode_of_decodeCommand (cid : Byte) (i : Instr) (h : decodeCommand cid = some i) :
    encode i = [0xF1, cid] ∧ i.wf = true ∧ ∀ m, Stream.admits (.client m) i = true := by
  have key : ∀ cid : Byte, (decodeCommand cid).all fun i =>
      decide (encode i = [0xF1, cid]) && i.wf && Stream.admits (.client .init) i && Stream.admits (.client .binary) i &&
        Stream.admits (.client .command) i := by decide
  have := key cid
  rw [h] at this
  simp only [Option.all_some, Bool.and_eq_true, decide_eq_true_eq] at this
  obtain ⟨⟨⟨⟨h1, h2⟩, h3⟩, h4⟩, h5⟩ := this
  exact ⟨h1, h2, fun m => by cases m <;> assumption⟩

/-- Header byte 4 is its two fields (R75). -/
theorem busByte_fields (h4 : Byte) : (h4.extractLsb' 2 6 ++ h4.extractLsb' 0 2 : BitVec (6 + 2)) = h4 := by
  revert h4
  decide

/-- Header byte 5 is its two fields (R76). -/
theorem lenByte_fields (h5 : Byte) : (h5.extractLsb' 4 4 ++ h5.extractLsb' 0 4 : BitVec (4 + 4)) = h5 := by
  revert h5
  decide

/-- Adapter byte 0 is its four fields (R80). -/
theorem byte0_fields (b0 : Byte) : (BitVec.ofBool (b0.getLsbD 7) ++ BitVec.ofBool (b0.getLsbD 6) ++ b0.extractLsb' 4 2 ++
    b0.extractLsb' 0 4 : BitVec (1 + 1 + 2 + 4)) = b0 := by
  revert b0
  decide

/-- `LE4` undoes `le32`. -/
theorem le4_le32 (b0 b1 b2 b3 : Byte) : le4 (le32 b0 b1 b2 b3) = [b0, b1, b2, b3] := by
  simp only [le32_eq_append, le4, List.cons.injEq, and_true]
  refine ⟨?_, ?_, ?_, ?_⟩ <;> apply BitVec.eq_of_getLsbD_eq <;> intro i hi <;>
    simp only [BitVec.getLsbD_extractLsb', BitVec.getLsbD_append] <;> interval_cases i <;> simp

/-- `BE4` undoes `be32`. -/
theorem be4_be32 (b0 b1 b2 b3 : Byte) : be4 (be32 b0 b1 b2 b3) = [b0, b1, b2, b3] := by
  simp only [be32_eq_append, be4, List.cons.injEq, and_true]
  refine ⟨?_, ?_, ?_, ?_⟩ <;> apply BitVec.eq_of_getLsbD_eq <;> intro i hi <;>
    simp only [BitVec.getLsbD_extractLsb', BitVec.getLsbD_append] <;> interval_cases i <;> simp

/-- `le32` undoes `LE4`. -/
theorem le32_le4 (v : Word32) :
    le32 (v.extractLsb' 0 8) (v.extractLsb' 8 8) (v.extractLsb' 16 8) (v.extractLsb' 24 8) = v := by
  rw [le32_eq_append]
  apply BitVec.eq_of_getLsbD_eq
  intro i hi
  simp only [BitVec.getLsbD_append, BitVec.getLsbD_extractLsb']
  interval_cases i <;> simp

/-- `be32` undoes `BE4`. -/
theorem be32_be4 (v : Word32) :
    be32 (v.extractLsb' 24 8) (v.extractLsb' 16 8) (v.extractLsb' 8 8) (v.extractLsb' 0 8) = v := by
  rw [be32_eq_append]
  apply BitVec.eq_of_getLsbD_eq
  intro i hi
  simp only [BitVec.getLsbD_append, BitVec.getLsbD_extractLsb']
  interval_cases i <;> simp

theorem isUnknown0F13_iff (cid : Byte) : isUnknown0F13 cid = true ↔ 0x0F ≤ cid.toNat ∧ cid.toNat ≤ 0x13 := by
  revert cid
  decide

theorem isUnknown17FF_iff (cid : Byte) : isUnknown17FF cid = true ↔ 0x17 ≤ cid.toNat := by
  revert cid
  decide

/-- The payload length of R76 as a number. -/
theorem payloadLen_val (h5 : Byte) : (payloadLen h5).val = min (h5.toNat % 16) 8 := by
  simp [payloadLen, payloadLenOfCode, lengthCode, BitVec.extractLsb'_toNat]

/-- The fields of header bytes 4 and 5 made by the encoder. -/
theorem header_fields (ops : BuildOperands) :
    (busByte ops).extractLsb' 2 6 = ops.busIgn ∧ (busByte ops).extractLsb' 0 2 = ops.bus ∧
      (lenByte ops).extractLsb' 4 4 = ops.lenIgn ∧ (lenByte ops).extractLsb' 0 4 = ops.len := by
  obtain ⟨a, b, c, d, e, f⟩ := ops
  simp only [busByte, lenByte]
  refine ⟨?_, ?_, ?_, ?_⟩
  · revert b c; decide
  · revert b c; decide
  · revert d e; decide
  · revert d e; decide

/-- The fields of adapter byte 0 made by the encoder. -/
theorem adapterByte0_fields (r : Bool) (ops : AdapterOperands) :
    (adapterByte0 r ops).getLsbD 7 = ops.ext ∧ (adapterByte0 r ops).getLsbD 6 = r ∧
      (adapterByte0 r ops).extractLsb' 4 2 = ops.ign ∧ (adapterByte0 r ops).extractLsb' 0 4 = ops.dlc := by
  obtain ⟨a, b, c, d, e⟩ := ops
  simp only [adapterByte0]
  refine ⟨?_, ?_, ?_, ?_⟩ <;> revert a b c r <;> decide

/-- The operand decoder on enough bytes. -/
theorem decodeOperands_eq (cid h0 h1 h2 h3 h4 h5 : Byte) (ps : List Byte) (h : (payloadLen h5).val ≤ ps.length) :
    decodeOperands cid (h0 :: h1 :: h2 :: h3 :: h4 :: h5 :: ps) =
      .ok (buildInstr cid (buildOperands h0 h1 h2 h3 h4 h5 (ps.take (payloadLen h5).val)),
        ps.drop (payloadLen h5).val) := by
  simp [decodeOperands, Nat.not_lt.mpr h]

/-- The operand decoder on a header that is not whole. -/
theorem decodeOperands_short {cid : Byte} {bs : List Byte} (h : bs.length < 6) :
    decodeOperands cid bs = .error .shortHeader := by
  match bs, h with
  | [], _ => rfl
  | [_], _ => rfl
  | [_, _], _ => rfl
  | [_, _, _], _ => rfl
  | [_, _, _, _], _ => rfl
  | [_, _, _, _, _], _ => rfl

/-- The operand decoder undoes the operand encoder. -/
theorem decodeOperands_encode (cid : Byte) (ops : BuildOperands) (rest : List Byte) (hwf : ops.wf = true) :
    decodeOperands cid (encodeOperands ops ++ rest) = .ok (buildInstr cid ops, rest) := by
  obtain ⟨b1, b2, b3, b4⟩ := header_fields ops
  have hl : (payloadLen (lenByte ops)).val = ops.data.length := by
    simp only [BuildOperands.wf, beq_iff_eq] at hwf
    rw [hwf, payloadLen, lengthCode, b4]
  have e : encodeOperands ops ++ rest = ops.raw.extractLsb' 0 8 :: ops.raw.extractLsb' 8 8 :: ops.raw.extractLsb' 16 8 ::
      ops.raw.extractLsb' 24 8 :: busByte ops :: lenByte ops :: (ops.data ++ rest) := by
    simp [encodeOperands, le4]
  rw [e, decodeOperands_eq _ _ _ _ _ _ _ _ (by rw [hl]; simp), hl, List.take_left, List.drop_left]
  simp only [buildOperands, le32_le4, b1, b2, b3, b4, lengthCode]

/-- The operand encoder undoes the reading of the header. -/
theorem encodeOperands_build (h0 h1 h2 h3 h4 h5 : Byte) (d : List Byte) :
    encodeOperands (buildOperands h0 h1 h2 h3 h4 h5 d) = h0 :: h1 :: h2 :: h3 :: h4 :: h5 :: d := by
  simp only [encodeOperands, buildOperands, le4_le32, busByte, lenByte, lengthCode]
  have h := busByte_fields h4
  have h' := lenByte_fields h5
  simp only [List.cons_append, List.nil_append]
  congr 5
  exact congrArg₂ _ h' rfl

/-- The adapter encoder undoes the reading of a frame. -/
theorem encode_adapterInstr (c : Conn) (b0 b1 b2 b3 b4 : Byte) (p : List Byte) :
    encode (adapterInstr c b0 b1 b2 b3 b4 p) = b0 :: b1 :: b2 :: b3 :: b4 :: p := by
  have h := byte0_fields b0
  unfold adapterInstr
  split <;> rename_i hb <;>
    simp only [encode, encodeAdapter, adapterOperands, adapterByte0, be4_be32, List.cons_append, List.nil_append] <;>
    unfold rtrBit at hb <;> simp only [hb] at h
  · exact congrArg₂ _ h rfl
  · exact congrArg₂ _ h rfl

end Sys2Proof
end

