-- ==== Sys2Proof/Laws/State.lean ====
section
/-! SUPPORT. What each update of a state leaves alone, one lemma for each field, and what reading back gives, so that no proof
unfolds an update. -/

namespace Sys2Proof.Machine

/-! ## Ports -/

@[simp] theorem State.setPort_mode (s : State) (p : Port) (c : PortContents) : (s.setPort p c).mode = s.mode := by
  rcases p with _ | _ | _ <;> rfl
@[simp] theorem State.setPort_cps (s : State) (p : Port) (c : PortContents) : (s.setPort p c).cps = s.cps := by
  rcases p with _ | _ | _ <;> rfl
@[simp] theorem State.setPort_cbuf (s : State) (p : Port) (c : PortContents) : (s.setPort p c).cbuf = s.cbuf := by
  rcases p with _ | _ | _ <;> rfl
@[simp] theorem State.setPort_rx0 (s : State) (p : Port) (c : PortContents) : (s.setPort p c).rx0 = s.rx0 := by
  rcases p with _ | _ | _ <;> rfl
@[simp] theorem State.setPort_rx1 (s : State) (p : Port) (c : PortContents) : (s.setPort p c).rx1 = s.rx1 := by
  rcases p with _ | _ | _ <;> rfl
@[simp] theorem State.setPort_outq (s : State) (p : Port) (c : PortContents) : (s.setPort p c).outq = s.outq := by
  rcases p with _ | _ | _ <;> rfl
@[simp] theorem State.setPort_timer (s : State) (p : Port) (c : PortContents) : (s.setPort p c).timer = s.timer := by
  rcases p with _ | _ | _ <;> rfl
@[simp] theorem State.setPort_status (s : State) (p : Port) (c : PortContents) : (s.setPort p c).status = s.status := by
  rcases p with _ | _ | _ <;> rfl
@[simp] theorem State.setPort_cause (s : State) (p : Port) (c : PortContents) : (s.setPort p c).cause = s.cause := by
  rcases p with _ | _ | _ <;> rfl
@[simp] theorem State.setPort_evlog (s : State) (p : Port) (c : PortContents) : (s.setPort p c).evlog = s.evlog := by
  rcases p with _ | _ | _ <;> rfl
@[simp] theorem State.setPort_cfg (s : State) (p : Port) (c : PortContents) : (s.setPort p c).cfg = s.cfg := by
  rcases p with _ | _ | _ <;> rfl
@[simp] theorem State.setPort_agenda (s : State) (p : Port) (c : PortContents) : (s.setPort p c).agenda = s.agenda := by
  rcases p with _ | _ | _ <;> rfl
@[simp] theorem State.setPort_draws (s : State) (p : Port) (c : PortContents) : (s.setPort p c).draws = s.draws := by
  rcases p with _ | _ | _ <;> rfl
@[simp] theorem State.setPort_cidLatch (s : State) (p : Port) (c : PortContents) : (s.setPort p c).cidLatch = s.cidLatch := by
  rcases p with _ | _ | _ <;> rfl

@[simp] theorem State.port_setPort_same (s : State) (p : Port) (c : PortContents) : (s.setPort p c).port p = c := by
  rcases p with _ | _ | _ <;> rfl

theorem State.port_setPort_ne (s : State) (p q : Port) (c : PortContents) (h : q ≠ p) :
    (s.setPort p c).port q = s.port q := by
  rcases p with _ | _ | _ <;> rcases q with _ | _ | _ <;> first | rfl | exact absurd rfl h

@[simp] theorem State.adapterRx_setPort (s : State) (p : Port) (c : PortContents) (d : Conn) :
    (s.setPort p c).adapterRx d = s.adapterRx d := by
  cases d <;> simp [State.adapterRx]

theorem State.setPort_port (s : State) (p : Port) : s.setPort p (s.port p) = s := by
  rcases p with _ | _ | _ <;> rfl

/-! ## Adapter receive paths -/

@[simp] theorem State.setAdapterRx_mode (s : State) (c : Conn) (r : AdapterRx) : (s.setAdapterRx c r).mode = s.mode := by
  cases c <;> rfl
@[simp] theorem State.setAdapterRx_cps (s : State) (c : Conn) (r : AdapterRx) : (s.setAdapterRx c r).cps = s.cps := by
  cases c <;> rfl
@[simp] theorem State.setAdapterRx_cbuf (s : State) (c : Conn) (r : AdapterRx) : (s.setAdapterRx c r).cbuf = s.cbuf := by
  cases c <;> rfl
@[simp] theorem State.setAdapterRx_outq (s : State) (c : Conn) (r : AdapterRx) : (s.setAdapterRx c r).outq = s.outq := by
  cases c <;> rfl
@[simp] theorem State.setAdapterRx_timer (s : State) (c : Conn) (r : AdapterRx) : (s.setAdapterRx c r).timer = s.timer := by
  cases c <;> rfl
@[simp] theorem State.setAdapterRx_status (s : State) (c : Conn) (r : AdapterRx) : (s.setAdapterRx c r).status = s.status := by
  cases c <;> rfl
@[simp] theorem State.setAdapterRx_cause (s : State) (c : Conn) (r : AdapterRx) : (s.setAdapterRx c r).cause = s.cause := by
  cases c <;> rfl
@[simp] theorem State.setAdapterRx_evlog (s : State) (c : Conn) (r : AdapterRx) : (s.setAdapterRx c r).evlog = s.evlog := by
  cases c <;> rfl
@[simp] theorem State.setAdapterRx_cfg (s : State) (c : Conn) (r : AdapterRx) : (s.setAdapterRx c r).cfg = s.cfg := by
  cases c <;> rfl
@[simp] theorem State.setAdapterRx_portC (s : State) (c : Conn) (r : AdapterRx) : (s.setAdapterRx c r).portC = s.portC := by
  cases c <;> rfl
@[simp] theorem State.setAdapterRx_portA0 (s : State) (c : Conn) (r : AdapterRx) : (s.setAdapterRx c r).portA0 = s.portA0 := by
  cases c <;> rfl
@[simp] theorem State.setAdapterRx_portA1 (s : State) (c : Conn) (r : AdapterRx) : (s.setAdapterRx c r).portA1 = s.portA1 := by
  cases c <;> rfl
@[simp] theorem State.setAdapterRx_agenda (s : State) (c : Conn) (r : AdapterRx) : (s.setAdapterRx c r).agenda = s.agenda := by
  cases c <;> rfl
@[simp] theorem State.setAdapterRx_draws (s : State) (c : Conn) (r : AdapterRx) : (s.setAdapterRx c r).draws = s.draws := by
  cases c <;> rfl
@[simp] theorem State.setAdapterRx_cidLatch (s : State) (c : Conn) (r : AdapterRx) : (s.setAdapterRx c r).cidLatch = s.cidLatch := by
  cases c <;> rfl

@[simp] theorem State.port_setAdapterRx (s : State) (c : Conn) (r : AdapterRx) (p : Port) :
    (s.setAdapterRx c r).port p = s.port p := by
  rcases p with _ | _ | _ <;> simp [State.port]

@[simp] theorem State.adapterRx_setAdapterRx_same (s : State) (c : Conn) (r : AdapterRx) :
    (s.setAdapterRx c r).adapterRx c = r := by
  cases c <;> rfl

theorem State.adapterRx_setAdapterRx_ne (s : State) (c d : Conn) (r : AdapterRx) (h : d ≠ c) :
    (s.setAdapterRx c r).adapterRx d = s.adapterRx d := by
  cases c <;> cases d <;> first | rfl | exact absurd rfl h

@[simp] theorem State.setAdapterRx_setAdapterRx (s : State) (c : Conn) (r q : AdapterRx) :
    (s.setAdapterRx c r).setAdapterRx c q = s.setAdapterRx c q := by
  cases c <;> rfl

/-! ## Receiving -/

@[simp] theorem State.consume_mode (s : State) (p : Port) : (s.consume p).mode = s.mode := by
  simp [State.consume]
@[simp] theorem State.consume_cps (s : State) (p : Port) : (s.consume p).cps = s.cps := by
  simp [State.consume]
@[simp] theorem State.consume_cbuf (s : State) (p : Port) : (s.consume p).cbuf = s.cbuf := by
  simp [State.consume]
@[simp] theorem State.consume_rx0 (s : State) (p : Port) : (s.consume p).rx0 = s.rx0 := by
  simp [State.consume]
@[simp] theorem State.consume_rx1 (s : State) (p : Port) : (s.consume p).rx1 = s.rx1 := by
  simp [State.consume]
@[simp] theorem State.consume_outq (s : State) (p : Port) : (s.consume p).outq = s.outq := by
  simp [State.consume]
@[simp] theorem State.consume_timer (s : State) (p : Port) : (s.consume p).timer = s.timer := by
  simp [State.consume]
@[simp] theorem State.consume_status (s : State) (p : Port) : (s.consume p).status = s.status := by
  simp [State.consume]
@[simp] theorem State.consume_cause (s : State) (p : Port) : (s.consume p).cause = s.cause := by
  simp [State.consume]
@[simp] theorem State.consume_evlog (s : State) (p : Port) : (s.consume p).evlog = s.evlog := by
  simp [State.consume]
@[simp] theorem State.consume_cfg (s : State) (p : Port) : (s.consume p).cfg = s.cfg := by
  simp [State.consume]
@[simp] theorem State.consume_agenda (s : State) (p : Port) : (s.consume p).agenda = s.agenda := by
  simp [State.consume]
@[simp] theorem State.consume_cidLatch (s : State) (p : Port) : (s.consume p).cidLatch = s.cidLatch := by
  simp [State.consume]

@[simp] theorem State.port_consume_same (s : State) (p : Port) :
    (s.consume p).port p = { s.port p with rx := (s.port p).rx.tail } := by
  rcases p with _ | _ | _ <;> rfl

theorem State.port_consume_ne (s : State) (p q : Port) (h : q ≠ p) : (s.consume p).port q = s.port q := by
  rcases p with _ | _ | _ <;> rcases q with _ | _ | _ <;> first | rfl | exact absurd rfl h

@[simp] theorem State.adapterRx_consume (s : State) (p : Port) (c : Conn) :
    (s.consume p).adapterRx c = s.adapterRx c := by
  cases c <;> simp [State.adapterRx]

@[simp] theorem State.writeCbuf_mode (s : State) (i : Fin 14) (b : Byte) : (s.writeCbuf i b).mode = s.mode := rfl
@[simp] theorem State.writeCbuf_cps (s : State) (i : Fin 14) (b : Byte) : (s.writeCbuf i b).cps = s.cps := rfl
@[simp] theorem State.writeCbuf_rx0 (s : State) (i : Fin 14) (b : Byte) : (s.writeCbuf i b).rx0 = s.rx0 := rfl
@[simp] theorem State.writeCbuf_rx1 (s : State) (i : Fin 14) (b : Byte) : (s.writeCbuf i b).rx1 = s.rx1 := rfl
@[simp] theorem State.writeCbuf_outq (s : State) (i : Fin 14) (b : Byte) : (s.writeCbuf i b).outq = s.outq := rfl
@[simp] theorem State.writeCbuf_timer (s : State) (i : Fin 14) (b : Byte) : (s.writeCbuf i b).timer = s.timer := rfl
@[simp] theorem State.writeCbuf_status (s : State) (i : Fin 14) (b : Byte) : (s.writeCbuf i b).status = s.status := rfl
@[simp] theorem State.writeCbuf_cause (s : State) (i : Fin 14) (b : Byte) : (s.writeCbuf i b).cause = s.cause := rfl
@[simp] theorem State.writeCbuf_evlog (s : State) (i : Fin 14) (b : Byte) : (s.writeCbuf i b).evlog = s.evlog := rfl
@[simp] theorem State.writeCbuf_cfg (s : State) (i : Fin 14) (b : Byte) : (s.writeCbuf i b).cfg = s.cfg := rfl
@[simp] theorem State.writeCbuf_portC (s : State) (i : Fin 14) (b : Byte) : (s.writeCbuf i b).portC = s.portC := rfl
@[simp] theorem State.writeCbuf_portA0 (s : State) (i : Fin 14) (b : Byte) : (s.writeCbuf i b).portA0 = s.portA0 := rfl
@[simp] theorem State.writeCbuf_portA1 (s : State) (i : Fin 14) (b : Byte) : (s.writeCbuf i b).portA1 = s.portA1 := rfl
@[simp] theorem State.writeCbuf_agenda (s : State) (i : Fin 14) (b : Byte) : (s.writeCbuf i b).agenda = s.agenda := rfl
@[simp] theorem State.writeCbuf_draws (s : State) (i : Fin 14) (b : Byte) : (s.writeCbuf i b).draws = s.draws := rfl
@[simp] theorem State.writeCbuf_cidLatch (s : State) (i : Fin 14) (b : Byte) : (s.writeCbuf i b).cidLatch = s.cidLatch := rfl

/-! ## Sending and raising -/

@[simp] theorem emit_mode (s : State) (p : Port) (xs : List Byte) : (emit p xs s).mode = s.mode := rfl
@[simp] theorem emit_cps (s : State) (p : Port) (xs : List Byte) : (emit p xs s).cps = s.cps := rfl
@[simp] theorem emit_cbuf (s : State) (p : Port) (xs : List Byte) : (emit p xs s).cbuf = s.cbuf := rfl
@[simp] theorem emit_rx0 (s : State) (p : Port) (xs : List Byte) : (emit p xs s).rx0 = s.rx0 := rfl
@[simp] theorem emit_rx1 (s : State) (p : Port) (xs : List Byte) : (emit p xs s).rx1 = s.rx1 := rfl
@[simp] theorem emit_timer (s : State) (p : Port) (xs : List Byte) : (emit p xs s).timer = s.timer := rfl
@[simp] theorem emit_status (s : State) (p : Port) (xs : List Byte) : (emit p xs s).status = s.status := rfl
@[simp] theorem emit_cause (s : State) (p : Port) (xs : List Byte) : (emit p xs s).cause = s.cause := rfl
@[simp] theorem emit_evlog (s : State) (p : Port) (xs : List Byte) : (emit p xs s).evlog = s.evlog := rfl
@[simp] theorem emit_cfg (s : State) (p : Port) (xs : List Byte) : (emit p xs s).cfg = s.cfg := rfl
@[simp] theorem emit_portC (s : State) (p : Port) (xs : List Byte) : (emit p xs s).portC = s.portC := rfl
@[simp] theorem emit_portA0 (s : State) (p : Port) (xs : List Byte) : (emit p xs s).portA0 = s.portA0 := rfl
@[simp] theorem emit_portA1 (s : State) (p : Port) (xs : List Byte) : (emit p xs s).portA1 = s.portA1 := rfl
@[simp] theorem emit_agenda (s : State) (p : Port) (xs : List Byte) : (emit p xs s).agenda = s.agenda := rfl
@[simp] theorem emit_draws (s : State) (p : Port) (xs : List Byte) : (emit p xs s).draws = s.draws := rfl
@[simp] theorem emit_cidLatch (s : State) (p : Port) (xs : List Byte) : (emit p xs s).cidLatch = s.cidLatch := rfl

@[simp] theorem emit_outq (p : Port) (xs : List Byte) (s : State) : (emit p xs s).outq = OutQ.ofList p xs := rfl

@[simp] theorem OutQ.ofList_cons (p : Port) (x : Byte) (xs : List Byte) :
    OutQ.ofList p (x :: xs) = .holding p x xs := rfl

@[simp] theorem OutQ.bytes_ofList (p : Port) (xs : List Byte) : (OutQ.ofList p xs).bytes = xs := by
  cases xs <;> rfl

@[simp] theorem raiseEvent_mode (s : State) (k : EventClass) (e : Event) : (raiseEvent k e s).mode = s.mode := by
  cases k <;> rfl
@[simp] theorem raiseEvent_cps (s : State) (k : EventClass) (e : Event) : (raiseEvent k e s).cps = s.cps := by
  cases k <;> rfl
@[simp] theorem raiseEvent_cbuf (s : State) (k : EventClass) (e : Event) : (raiseEvent k e s).cbuf = s.cbuf := by
  cases k <;> rfl
@[simp] theorem raiseEvent_rx0 (s : State) (k : EventClass) (e : Event) : (raiseEvent k e s).rx0 = s.rx0 := by
  cases k <;> rfl
@[simp] theorem raiseEvent_rx1 (s : State) (k : EventClass) (e : Event) : (raiseEvent k e s).rx1 = s.rx1 := by
  cases k <;> rfl
@[simp] theorem raiseEvent_outq (s : State) (k : EventClass) (e : Event) : (raiseEvent k e s).outq = s.outq := by
  cases k <;> rfl
@[simp] theorem raiseEvent_timer (s : State) (k : EventClass) (e : Event) : (raiseEvent k e s).timer = s.timer := by
  cases k <;> rfl
@[simp] theorem raiseEvent_cfg (s : State) (k : EventClass) (e : Event) : (raiseEvent k e s).cfg = s.cfg := by
  cases k <;> rfl
@[simp] theorem raiseEvent_portC (s : State) (k : EventClass) (e : Event) : (raiseEvent k e s).portC = s.portC := by
  cases k <;> rfl
@[simp] theorem raiseEvent_portA0 (s : State) (k : EventClass) (e : Event) : (raiseEvent k e s).portA0 = s.portA0 := by
  cases k <;> rfl
@[simp] theorem raiseEvent_portA1 (s : State) (k : EventClass) (e : Event) : (raiseEvent k e s).portA1 = s.portA1 := by
  cases k <;> rfl
@[simp] theorem raiseEvent_agenda (s : State) (k : EventClass) (e : Event) : (raiseEvent k e s).agenda = s.agenda := by
  cases k <;> rfl
@[simp] theorem raiseEvent_draws (s : State) (k : EventClass) (e : Event) : (raiseEvent k e s).draws = s.draws := by
  cases k <;> rfl
@[simp] theorem raiseEvent_cidLatch (s : State) (k : EventClass) (e : Event) : (raiseEvent k e s).cidLatch = s.cidLatch := by
  cases k <;> rfl

@[simp] theorem raiseEvent_evlog (k : EventClass) (e : Event) (s : State) :
    (raiseEvent k e s).evlog = s.evlog ++ [e] := by
  cases k <;> rfl

end Sys2Proof.Machine
end

