-- ==== Sys2Proof/Laws/Meanings.lean ====
section
/-! SUPPORT. What the shared operations and the meanings can do, said once: one lemma for each operation, and one frame and one
effect lemma for exec, which proofs cite instead of unfolding the meanings. -/

namespace Sys2Proof.Machine

/-! ## Frames and fields -/

theorem idMask_lt_iff (ext : Bool) (id : Word32) :
    idMask ext < id ↔ (if ext then 0x1FFFFFFF else 0x7FF) < id.toNat := by
  cases ext <;> simp [idMask, BitVec.lt_def]

theorem dlc_gt_iff (dlc : BitVec 4) : (8 : BitVec 4) < dlc ↔ 8 < dlc.toNat := by
  simp [BitVec.lt_def]

/-- A BuildCanFrame identifier is too long exactly when raw bit 30 or bit 29 is set (R127). -/
theorem idOfRaw_too_long_iff (raw : Word32) :
    idMask (extOfRaw raw) < idOfRaw raw ↔ (raw.getLsbD 30 || raw.getLsbD 29) = true := by
  unfold extOfRaw idOfRaw extOfRaw idMask
  by_cases h : 0x7FF#32 < raw
  · simp only [h, decide_true, if_true]
    have e : (raw &&& 0x7FFFFFFF#32).toNat = raw.toNat % 2 ^ 31 := by
      rw [BitVec.toNat_and]
      exact Nat.and_two_pow_sub_one_eq_mod _ 31
    have g30 : raw.getLsbD 30 = decide (raw.toNat / 2 ^ 30 % 2 = 1) := by
      rw [BitVec.getLsbD, Nat.testBit_eq_decide_div_mod_eq]
    have g29 : raw.getLsbD 29 = decide (raw.toNat / 2 ^ 29 % 2 = 1) := by
      rw [BitVec.getLsbD, Nat.testBit_eq_decide_div_mod_eq]
    rw [BitVec.lt_def, e, g30, g29]
    simp
    omega
  · have h' : raw.toNat ≤ 0x7FF := by simpa [BitVec.lt_def] using h
    have g30 : raw.getLsbD 30 = false := by
      rw [BitVec.getLsbD]
      exact Nat.testBit_lt_two_pow (by omega)
    have g29 : raw.getLsbD 29 = false := by
      rw [BitVec.getLsbD]
      exact Nat.testBit_lt_two_pow (by omega)
    rw [g30, g29]
    simp only [h, decide_false, Bool.false_eq_true, if_false, BitVec.lt_def]
    simp
    omega

/-- Adapter byte 0 of a Data frame (R80). -/
theorem dataByte0 (ext : Bool) (n : Nat) (h : n ≤ 8) :
    extBit7 ext ||| (0#8 <<< 6) ||| BitVec.ofNat 8 n = (if ext then 0x80 else 0x00) + BitVec.ofNat 8 n := by
  cases ext <;> interval_cases n <;> rfl

/-- The bus and length byte of a telemetry frame (R173). -/
theorem busLengthByte (c : Conn) (n : Nat) (h : n ≤ 8) :
    (busOf c).setWidth 8 <<< 4 ||| BitVec.ofNat 8 n = (if c = .a1 then 0x10 else 0x00) + BitVec.ofNat 8 n := by
  cases c <;> interval_cases n <;> rfl

/-- The identifier field of a telemetry frame (R172). -/
theorem le4_or_extBit31 (id : Word32) (ext : Bool) :
    le4 (id ||| extBit31 ext) = [id.extractLsb' 0 8, id.extractLsb' 8 8, id.extractLsb' 16 8,
      id.extractLsb' 24 8 ||| (if ext then 0x80 else 0x00)] := by
  cases ext
  · simp [le4, extBit31]
  · have h1 : extBit31 true = 0x80000000#32 := by decide
    simp only [le4, h1, BitVec.extractLsb'_or]
    simp

theorem newData_ok {bus : BitVec 2} {id : Word32} {ext : Bool} {data : List Byte} {f : Frame}
    (h : newData bus id ext data = .ok f) : f = .data bus id ext data ∧ data.length ≤ 8 ∧ ¬ idMask ext < id := by
  unfold newData at h
  split at h
  · cases h
  · split at h
    · cases h
    · next h1 h2 => cases h; exact ⟨rfl, by omega, h1⟩

theorem newRemote_ok {bus : BitVec 2} {id : Word32} {ext : Bool} {dlc : BitVec 4} {f : Frame}
    (h : newRemote bus id ext dlc = .ok f) : f = .remote bus id ext dlc ∧ dlc.toNat ≤ 8 ∧ ¬ idMask ext < id := by
  unfold newRemote at h
  split at h
  · cases h
  · split at h
    · cases h
    · next h1 h2 =>
      cases h
      rw [dlc_gt_iff] at h2
      exact ⟨rfl, by omega, h1⟩

/-! ## Routing and delivery -/

theorem route_absent (f : Frame) (s : State) (h1 : routeTo s.cfg.routeMap f.bus = .a1) (h2 : s.cfg.numBuses = .one) :
    route f s = unroutable f s := by
  simp [route, connPresent, h1, h2]

theorem route_present (f : Frame) (s : State)
    (h : ¬ (routeTo s.cfg.routeMap f.bus = .a1 ∧ s.cfg.numBuses = .one)) :
    route f s = emit (.adapter (routeTo s.cfg.routeMap f.bus)) (adapterEncode f) s := by
  have : connPresent s.cfg.numBuses (routeTo s.cfg.routeMap f.bus) = true := by
    cases h1 : routeTo s.cfg.routeMap f.bus <;> cases h2 : s.cfg.numBuses <;> simp_all [connPresent]
  simp [route, this]

theorem setAcnt_eq (s : State) (c : Conn) (n : Fin 13) :
    s.setAcnt c n = s.setAdapterRx c ⟨n, (s.adapterRx c).abuf⟩ := rfl

theorem telemetry_length {ts : Word32} {f : Frame} {t : List Byte} (h : telemetry ts f = some t) :
    0 < t.length ∧ t.length ≤ 20 := by
  cases f with
  | remote => simp [telemetry, Frame.payload] at h
  | data bus id ext data =>
    by_cases hl : 8 < data.length
    · simp [telemetry, Frame.payload, Frame.dlc, hl] at h
    · simp only [telemetry, Frame.payload, Frame.dlc, hl, if_false, Option.some.injEq] at h
      subst h
      simp [le4]
      omega

theorem deliver_rejected (c : Conn) (f : Frame) (s : State) (h : telemetry (ts32 s) f = none) :
    deliver c (.ok f) s = raiseEvent .recoverable (.telemetryReject c) s := by
  simp [deliver, h]

theorem deliver_sent (c : Conn) (f : Frame) (s : State) (t : List Byte) (h : telemetry (ts32 s) f = some t) :
    deliver c (.ok f) s = emit .client t s := by
  simp [deliver, h]

/-! ## What a meaning can do to OUTQ, EVLOG, STATUS and CAUSE -/

/-- The service of a completed transaction (R230, R250, R256): nothing, one recoverable event, one fault event, or one byte
list staged for one port that exists. -/
inductive Service (s t : State) : Prop where
  | nothing (outq : t.outq = s.outq) (evlog : t.evlog = s.evlog) (status : t.status = s.status) (cause : t.cause = s.cause)
  | event (e : Event) (outq : t.outq = s.outq) (evlog : t.evlog = s.evlog ++ [e]) (status : t.status = s.status)
      (cause : t.cause = s.cause) (not5 : e.code ≠ 5) (on6 : e.code = 6 → s.cfg.reservedPolicy = .ignore)
      (on7 : e.code = 7 → s.cfg.unroutablePolicy = .drop)
  | fault (e : Event) (outq : t.outq = s.outq) (evlog : t.evlog = s.evlog ++ [e]) (status : t.status = .faulted)
      (cause : t.cause = e)
      (policy : (e.code = 6 ∧ s.cfg.reservedPolicy = .fault) ∨ (e.code = 7 ∧ s.cfg.unroutablePolicy = .fault))
  | emits (p : Port) (x : Byte) (xs : List Byte) (outq : t.outq = .holding p x xs) (evlog : t.evlog = s.evlog)
      (status : t.status = s.status) (cause : t.cause = s.cause) (length : xs.length ≤ 19) (live : s.live p = true)

theorem Service.of_emit {s t : State} {p : Port} {ys : List Byte} (hq : t.outq = OutQ.ofList p ys)
    (he : t.evlog = s.evlog) (hs : t.status = s.status) (hc : t.cause = s.cause) (h0 : 0 < ys.length)
    (h20 : ys.length ≤ 20) (hl : s.live p = true) : Service s t := by
  cases ys with
  | nil => simp at h0
  | cons x xs => exact .emits p x xs hq he hs hc (Nat.le_of_succ_le_succ (by simpa using h20)) hl

theorem adapterEncode_length {f : Frame} (h : f.dlc ≤ 8) : (adapterEncode f).length = 13 := by
  cases f with
  | data bus id ext data =>
    simp only [Frame.dlc] at h
    simp [adapterEncode, be4, zeros]
    omega
  | remote => simp [adapterEncode, be4, zeros]

theorem live_of_not_absent {s : State} {c : Conn} (h : ¬ (c = .a1 ∧ s.cfg.numBuses = .one)) :
    s.live (.adapter c) = true := by
  cases c <;> cases hn : s.cfg.numBuses <;> simp_all [State.live, connPresent]

/-- Routing a Data frame of at most 8 bytes. -/
theorem route_service (f : Frame) (s s0 : State) (hf : f.dlc ≤ 8) (hcfg : s.cfg = s0.cfg) (hq : s.outq = s0.outq)
    (he : s.evlog = s0.evlog) (hs : s.status = s0.status) (hc : s.cause = s0.cause) : Service s0 (route f s) := by
  by_cases h : routeTo s.cfg.routeMap f.bus = .a1 ∧ s.cfg.numBuses = .one
  · rw [route_absent f s h.1 h.2]
    unfold unroutable
    cases hp : s.cfg.unroutablePolicy with
    | drop =>
      exact .event (.unroutable f.bus) hq (by simp [he]) hs hc (by simp [Event.code]) (by simp [Event.code])
        (fun _ => hcfg ▸ hp)
    | fault =>
      exact .fault (.unroutable f.bus) hq (by simp [he]) rfl rfl (Or.inr ⟨rfl, hcfg ▸ hp⟩)
  · rw [route_present f s h]
    refine Service.of_emit rfl he hs hc (by simp [adapterEncode_length hf]) (by simp [adapterEncode_length hf]) ?_
    rw [hcfg] at h ⊢
    exact live_of_not_absent h

theorem buildComplete_service (ops : BuildOperands) (s s0 : State) (hcfg : s.cfg = s0.cfg) (hq : s.outq = s0.outq)
    (he : s.evlog = s0.evlog) (hs : s.status = s0.status) (hc : s.cause = s0.cause) :
    Service s0 (buildComplete ops s) := by
  unfold buildComplete
  cases h : newData ops.bus (idOfRaw ops.raw) (extOfRaw ops.raw) ops.data with
  | ok f =>
    obtain ⟨rfl, hl, -⟩ := newData_ok h
    exact route_service _ s s0 hl hcfg hq he hs hc
  | error e =>
    exact .event (.idTooLongClient ops.raw) hq (by simp [he]) hs hc (by simp [Event.code]) (by simp [Event.code])
      (by simp [Event.code])

theorem deliver_service (c : Conn) (r : Except FrameError Frame) (s s0 : State) (hq : s.outq = s0.outq)
    (he : s.evlog = s0.evlog) (hs : s.status = s0.status) (hc : s.cause = s0.cause) : Service s0 (deliver c r s) := by
  cases r with
  | error e =>
    cases e with
    | idTooLong =>
      exact .event (.idTooLongAdapter c) hq (by simp [deliver, he, adapterErrorEvent]) hs hc (by simp [Event.code])
        (by simp [Event.code]) (by simp [Event.code])
    | dataTooLong =>
      exact .event (.dataTooLong c) hq (by simp [deliver, he, adapterErrorEvent]) hs hc (by simp [Event.code])
        (by simp [Event.code]) (by simp [Event.code])
  | ok f =>
    cases h : telemetry (ts32 s) f with
    | none =>
      rw [deliver_rejected c f s h]
      exact .event (.telemetryReject c) hq (by simp [he]) hs hc (by simp [Event.code]) (by simp [Event.code])
        (by simp [Event.code])
    | some t =>
      have hl := telemetry_length h
      rw [deliver_sent c f s t h]
      exact Service.of_emit rfl he hs hc hl.1 hl.2 rfl

theorem reserved_service (cid : Byte) (s : State) : Service s (reserved cid s) := by
  unfold reserved
  cases hp : s.cfg.reservedPolicy with
  | ignore =>
    exact .event (.reservedCommand cid) rfl (by simp) rfl rfl (by simp [Event.code]) (fun _ => hp) (by simp [Event.code])
  | fault => exact .fault (.reservedCommand cid) rfl (by simp) rfl rfl (Or.inl ⟨rfl, hp⟩)

theorem respond_service {xs : List Byte} (s s0 : State) (he : s.evlog = s0.evlog) (hs : s.status = s0.status)
    (hc : s.cause = s0.cause) (h0 : 0 < xs.length) (h20 : xs.length ≤ 20) : Service s0 (respond xs s) :=
  Service.of_emit rfl he hs hc h0 h20 rfl

theorem respCanBusParams_length (s : State) : (respCanBusParams s).length ≤ 12 := by
  unfold respCanBusParams
  cases s.cfg.numBuses <;> simp [le4]

/-! ## exec -/

/-- Every meaning answers a next state. -/
theorem exec_next (i : Instr) (s : State) : ∃ t, exec i s = .next t := by
  cases i <;> exact ⟨_, rfl⟩

/-- The three rows with operands share one meaning (R128). -/
theorem exec_of_buildOps {i : Instr} {ops : BuildOperands} (h : buildOps i = some ops) (s : State) :
    exec i s = .next (buildComplete ops { s with cps := .idle }) := by
  cases i <;> simp_all [buildOps] <;> rfl

theorem length_of_buildOps {i : Instr} {ops : BuildOperands} (h : buildOps i = some ops) (hw : i.wf = true) :
    ops.data.length = min ops.len.toNat 8 := by
  cases i <;> simp_all [buildOps, Instr.wf, BuildOperands.wf, payloadLenOfCode]

/-- What `exec` can do, for every instruction and state: the service of the transaction. -/
theorem exec_service {i : Instr} {s t : State} (h : exec i s = .next t) : Service s t := by
  cases i with
  | hs => cases h; exact .nothing rfl rfl rfl rfl
  | stray b => cases h; exact .nothing rfl rfl rfl rfl
  | cmdBuild ops => cases h; exact buildComplete_service _ _ _ rfl rfl rfl rfl rfl
  | cmdUnknown0F13 cid ops => cases h; exact buildComplete_service _ _ _ rfl rfl rfl rfl rfl
  | cmdUnknown17FF cid ops => cases h; exact buildComplete_service _ _ _ rfl rfl rfl rfl rfl
  | cmdTimesync => cases h; exact respond_service _ _ rfl rfl rfl (by simp [respTimeSync]) (by simp [respTimeSync, le4])
  | cmdCanparams =>
    cases h
    exact respond_service _ _ rfl rfl rfl (by simp [respCanBusParams])
      (Nat.le_trans (respCanBusParams_length s) (by omega))
  | cmdDevinfo => cases h; exact respond_service _ _ rfl rfl rfl (by simp [respDevInfo]) (by simp [respDevInfo])
  | cmdKeepalive => cases h; exact respond_service _ _ rfl rfl rfl (by simp [respKeepAlive]) (by simp [respKeepAlive])
  | cmdNumbuses => cases h; exact respond_service _ _ rfl rfl rfl (by simp [respNumBuses]) (by simp [respNumBuses])
  | cmdExtbuses =>
    cases h
    exact respond_service _ _ rfl rfl rfl (by simp [respExtBuses]) (by simp [respExtBuses, zeros])
  | rsvd02 => cases h; exact reserved_service _ _
  | rsvd03 => cases h; exact reserved_service _ _
  | rsvd04 => cases h; exact reserved_service _ _
  | rsvd05 => cases h; exact reserved_service _ _
  | rsvd08 => cases h; exact reserved_service _ _
  | rsvd0A => cases h; exact reserved_service _ _
  | rsvd0B => cases h; exact reserved_service _ _
  | rsvd0E => cases h; exact reserved_service _ _
  | rsvd14 => cases h; exact reserved_service _ _
  | rsvd15 => cases h; exact reserved_service _ _
  | rsvd16 => cases h; exact reserved_service _ _
  | adpData c ops =>
    cases h
    exact deliver_service _ _ _ _ (by simp [setAcnt_eq]) (by simp [setAcnt_eq]) (by simp [setAcnt_eq]) (by simp [setAcnt_eq])
  | adpRemote c ops =>
    cases h
    exact deliver_service _ _ _ _ (by simp [setAcnt_eq]) (by simp [setAcnt_eq]) (by simp [setAcnt_eq]) (by simp [setAcnt_eq])

/-! ## Frames -/

/-- `t` is `s` but for `OUTQ`, `EVLOG`, `STATUS` and `CAUSE`. -/
def OnlyService (s t : State) : Prop :=
  t = { s with outq := t.outq, status := t.status, cause := t.cause, evlog := t.evlog }

theorem raiseEvent_frame (k : EventClass) (e : Event) (s : State) : OnlyService s (raiseEvent k e s) := by
  cases k <;> rfl

theorem emit_frame (p : Port) (xs : List Byte) (s : State) : OnlyService s (emit p xs s) := rfl

theorem route_frame (f : Frame) (s : State) : OnlyService s (route f s) := by
  by_cases h : routeTo s.cfg.routeMap f.bus = .a1 ∧ s.cfg.numBuses = .one
  · rw [route_absent f s h.1 h.2]
    unfold unroutable
    cases s.cfg.unroutablePolicy <;> exact raiseEvent_frame _ _ _
  · rw [route_present f s h]
    exact emit_frame _ _ _

theorem buildComplete_frame (ops : BuildOperands) (s : State) : OnlyService s (buildComplete ops s) := by
  unfold buildComplete
  cases newData ops.bus (idOfRaw ops.raw) (extOfRaw ops.raw) ops.data with
  | ok f => exact route_frame f s
  | error e => exact raiseEvent_frame _ _ _

theorem deliver_frame (c : Conn) (r : Except FrameError Frame) (s : State) :
    deliver c r s = { s with outq := (deliver c r s).outq, evlog := (deliver c r s).evlog } := by
  cases r with
  | error e => rfl
  | ok f =>
    cases h : telemetry (ts32 s) f with
    | none => rw [deliver_rejected c f s h]; rfl
    | some t => rw [deliver_sent c f s t h]; rfl

theorem reserved_frame (cid : Byte) (s : State) :
    reserved cid s = { s with
      cps := (reserved cid s).cps, status := (reserved cid s).status, cause := (reserved cid s).cause
      evlog := (reserved cid s).evlog } := by
  unfold reserved
  cases s.cfg.reservedPolicy <;> rfl

theorem reserved_cps (cid : Byte) (s : State) : (reserved cid s).cps = s.cps ∨ (reserved cid s).cps = .idle := by
  unfold reserved
  cases s.cfg.reservedPolicy
  · exact Or.inl rfl
  · exact Or.inr rfl

/-- `t` is `s` but for what meanings write: `MODE`, `CPS`, `ACNT[c]`, and the service. -/
def OnlyMeaning (s t : State) : Prop :=
  t = { s with
    mode := t.mode, cps := t.cps, outq := t.outq, status := t.status, cause := t.cause, evlog := t.evlog
    rx0 := { s.rx0 with acnt := t.rx0.acnt }, rx1 := { s.rx1 with acnt := t.rx1.acnt } }

theorem buildOps_frame {i : Instr} {s t : State} (hb : (buildOps i).isSome) (h : exec i s = .next t) :
    t = { s with cps := .idle, outq := t.outq, status := t.status, cause := t.cause, evlog := t.evlog } := by
  obtain ⟨ops, hops⟩ := Option.isSome_iff_exists.mp hb
  rw [exec_of_buildOps hops] at h
  cases h
  exact buildComplete_frame ops { s with cps := .idle }

theorem deliver_setAcnt_frame (c : Conn) (r : Except FrameError Frame) (s : State) :
    OnlyMeaning s (deliver c r (s.setAcnt c 0)) := by
  unfold OnlyMeaning
  rw [deliver_frame]
  cases c <;> rfl

/-- The frame of every meaning. -/
theorem exec_frame {i : Instr} {s t : State} (h : exec i s = .next t) : OnlyMeaning s t := by
  by_cases hb : (buildOps i).isSome
  · have := buildOps_frame hb h
    unfold OnlyMeaning
    rw [this]
  · cases i with
    | cmdBuild ops => simp [buildOps] at hb
    | cmdUnknown0F13 cid ops => simp [buildOps] at hb
    | cmdUnknown17FF cid ops => simp [buildOps] at hb
    | adpData c ops => cases h; exact deliver_setAcnt_frame c _ s
    | adpRemote c ops => cases h; exact deliver_setAcnt_frame c _ s
    | hs => cases h; rfl
    | stray b => cases h; rfl
    | cmdTimesync => cases h; rfl
    | cmdCanparams => cases h; rfl
    | cmdDevinfo => cases h; rfl
    | cmdKeepalive => cases h; rfl
    | cmdNumbuses => cases h; rfl
    | cmdExtbuses => cases h; rfl
    | rsvd02 => cases h; unfold OnlyMeaning; rw [reserved_frame]
    | rsvd03 => cases h; unfold OnlyMeaning; rw [reserved_frame]
    | rsvd04 => cases h; unfold OnlyMeaning; rw [reserved_frame]
    | rsvd05 => cases h; unfold OnlyMeaning; rw [reserved_frame]
    | rsvd08 => cases h; unfold OnlyMeaning; rw [reserved_frame]
    | rsvd0A => cases h; unfold OnlyMeaning; rw [reserved_frame]
    | rsvd0B => cases h; unfold OnlyMeaning; rw [reserved_frame]
    | rsvd0E => cases h; unfold OnlyMeaning; rw [reserved_frame]
    | rsvd14 => cases h; unfold OnlyMeaning; rw [reserved_frame]
    | rsvd15 => cases h; unfold OnlyMeaning; rw [reserved_frame]
    | rsvd16 => cases h; unfold OnlyMeaning; rw [reserved_frame]

/-- The meaning of a built instruction does not depend on the identifier (R128). -/
theorem exec_buildInstr (cid : Byte) (ops : BuildOperands) (s : State) :
    exec (buildInstr cid ops) s = exec (.cmdBuild ops) s := by
  unfold buildInstr
  split
  · rfl
  · split <;> rfl

/-- A meaning leaves `CPS` or sets it to IDLE. -/
theorem exec_cps {i : Instr} {s t : State} (h : exec i s = .next t) : t.cps = s.cps ∨ t.cps = .idle := by
  by_cases hb : (buildOps i).isSome
  · right; rw [buildOps_frame hb h]
  · cases i with
    | cmdBuild ops => simp [buildOps] at hb
    | cmdUnknown0F13 cid ops => simp [buildOps] at hb
    | cmdUnknown17FF cid ops => simp [buildOps] at hb
    | adpData c ops => cases h; left; rw [deliver_frame]; cases c <;> rfl
    | adpRemote c ops => cases h; left; rw [deliver_frame]; cases c <;> rfl
    | hs => cases h; exact Or.inl rfl
    | stray b => cases h; exact Or.inl rfl
    | cmdTimesync => cases h; exact Or.inr rfl
    | cmdCanparams => cases h; exact Or.inr rfl
    | cmdDevinfo => cases h; exact Or.inr rfl
    | cmdKeepalive => cases h; exact Or.inr rfl
    | cmdNumbuses => cases h; exact Or.inr rfl
    | cmdExtbuses => cases h; exact Or.inr rfl
    | rsvd02 => cases h; exact reserved_cps _ _
    | rsvd03 => cases h; exact reserved_cps _ _
    | rsvd04 => cases h; exact reserved_cps _ _
    | rsvd05 => cases h; exact reserved_cps _ _
    | rsvd08 => cases h; exact reserved_cps _ _
    | rsvd0A => cases h; exact reserved_cps _ _
    | rsvd0B => cases h; exact reserved_cps _ _
    | rsvd0E => cases h; exact reserved_cps _ _
    | rsvd14 => cases h; exact reserved_cps _ _
    | rsvd15 => cases h; exact reserved_cps _ _
    | rsvd16 => cases h; exact reserved_cps _ _

/-- Only the handshake moves `MODE`, from INIT to BINARY. -/
theorem exec_mode {i : Instr} {s t : State} (h : exec i s = .next t) :
    t.mode = s.mode ∨ (i = .hs ∧ s.mode = .init ∧ t.mode = .binary) := by
  by_cases hb : (buildOps i).isSome
  · left; rw [buildOps_frame hb h]
  · cases i with
    | cmdBuild ops => simp [buildOps] at hb
    | cmdUnknown0F13 cid ops => simp [buildOps] at hb
    | cmdUnknown17FF cid ops => simp [buildOps] at hb
    | adpData c ops => cases h; left; rw [deliver_frame]; cases c <;> rfl
    | adpRemote c ops => cases h; left; rw [deliver_frame]; cases c <;> rfl
    | hs =>
      cases h
      cases hm : s.mode <;> simp
    | stray b => cases h; exact Or.inl rfl
    | cmdTimesync => cases h; exact Or.inl rfl
    | cmdCanparams => cases h; exact Or.inl rfl
    | cmdDevinfo => cases h; exact Or.inl rfl
    | cmdKeepalive => cases h; exact Or.inl rfl
    | cmdNumbuses => cases h; exact Or.inl rfl
    | cmdExtbuses => cases h; exact Or.inl rfl
    | rsvd02 | rsvd03 | rsvd04 | rsvd05 | rsvd08 | rsvd0A | rsvd0B | rsvd0E | rsvd14 | rsvd15 | rsvd16 =>
      cases h
      exact Or.inl (by rw [reserved_frame])

end Sys2Proof.Machine
end

