-- ==== Sys2Proof/Laws/Step.lean ====
section
/-! SUPPORT. What one step can do, said once: the inversion of step, of serving an event, and of the byte steps. -/

namespace Sys2Proof.Machine

/-- The outcome of a fetched step: what `step` does with it. -/
def Fetched.outcome : Fetched → Host.Outcome State Fault Refusal
  | .stop r => .fault r
  | .moved t => .next t
  | .run i t => exec i t

theorem step_eq (s : State) : step s = (fetch s).outcome := by
  unfold step
  cases fetch s <;> rfl

/-! ## Choosing a port -/

theorem State.drawPort_ready {s : State} {p : Port} (h : s.drawPort = some p) : s.readyPort p = true := by
  have hmem : p ∈ s.readyPorts := by
    unfold State.drawPort at h
    split at h
    · cases h
    · next q hq => cases h; simp [hq]
    · next q qs _ hq => rw [hq]; exact List.mem_of_getElem? h
  exact (List.mem_filter.mp hmem).2

theorem State.drawPort_some {s : State} (h : s.readyPorts ≠ []) : ∃ p, s.drawPort = some p := by
  unfold State.drawPort
  split
  · next hq => exact absurd hq h
  · next q hq => exact ⟨q, rfl⟩
  · next q qs _ hq =>
    have hlt : Config.freePick s.draws % (qs.length + 1) < (q :: qs).length := by
      simpa using Nat.mod_lt _ (Nat.succ_pos _)
    exact ⟨_, List.getElem?_eq_getElem hlt⟩

theorem State.choosePort_ready {s : State} {c : Option Port} {p : Port} (h : s.choosePort c = some p) :
    s.readyPort p = true := by
  unfold State.choosePort at h
  split at h
  · split at h
    · next q hq => cases h; exact hq
    · exact State.drawPort_ready h
  · exact State.drawPort_ready h

theorem State.mem_readyPorts {s : State} {p : Port} (h : s.readyPort p = true) : p ∈ s.readyPorts := by
  refine List.mem_filter.mpr ⟨?_, h⟩
  rcases p with _ | _ | _ <;> simp

theorem State.choosePort_some {s : State} {p : Port} (c : Option Port) (h : s.readyPort p = true) :
    ∃ q, s.choosePort c = some q := by
  have hne : s.readyPorts ≠ [] := List.ne_nil_of_mem (State.mem_readyPorts h)
  unfold State.choosePort
  split
  · split
    · exact ⟨_, rfl⟩
    · exact State.drawPort_some hne
  · exact State.drawPort_some hne

theorem State.choosePort_none {s : State} {c : Option Port} (h : s.choosePort c = none) (p : Port) :
    s.readyPort p = false := by
  cases hp : s.readyPort p with
  | false => rfl
  | true =>
    obtain ⟨q, hq⟩ := State.choosePort_some c hp
    rw [h] at hq
    cases hq

theorem State.offers_of_ready {s : State} {p : Port} (h : s.readyPort p = true) :
    s.live p = true ∧ ∃ e es, (s.port p).rx = e :: es := by
  unfold State.readyPort at h
  rw [Bool.and_eq_true] at h
  refine ⟨h.1, ?_⟩
  cases hr : (s.port p).rx with
  | nil => simp [hr] at h
  | cons e es => exact ⟨e, es, rfl⟩

theorem State.live_of_serves {s : State} {p : Port} {e : RxEvent} (h : s.Serves p e) : s.live p = true := by
  obtain ⟨-, ⟨c, -, hc⟩, -⟩ := h
  exact (State.offers_of_ready (State.choosePort_ready hc)).1

theorem State.choosePort_agenda (s : State) (ts : List Turn) (c : Option Port) :
    ({ s with agenda := ts } : State).choosePort c = s.choosePort c := rfl

theorem State.consumed_eq (s : State) (p : Port) : s.consumed p = ({ s with agenda := s.agenda.tail } : State).consume p := by
  rcases p with _ | _ | _ <;> rfl

/-- A turn of the block is its own step after the turn is taken. -/
theorem fetch_of_blockChoice {s : State} {c : Option Port} (h : s.blockChoice = some c) :
    fetch s = blockStep c { s with agenda := s.agenda.tail } := by
  cases ha : s.agenda with
  | nil =>
    simp only [State.blockChoice, ha, Option.some.injEq] at h
    subst h
    have hs : ({ s with agenda := [] } : State) = s := by rw [← ha]
    simp only [fetch, ha, List.tail_nil, hs]
  | cons t ts =>
    cases t with
    | block q =>
      simp only [State.blockChoice, ha, Option.some.injEq] at h
      subst h
      simp only [fetch, ha, List.tail_cons]
    | offer q e => simp [State.blockChoice, ha] at h
    | accept q x => simp [State.blockChoice, ha] at h
    | time v => simp [State.blockChoice, ha] at h

theorem inputStep_of_choice {s : State} {c : Option Port} {p : Port} {e : RxEvent} {es : List RxEvent}
    (hp : s.choosePort c = some p) (hrx : (s.port p).rx = e :: es) :
    inputStep c s = serve p e (s.consume p) := by
  simp only [inputStep, hp, hrx]

theorem inputStep_waits {s : State} {c : Option Port} (hp : s.choosePort c = none) : inputStep c s = .moved s := by
  simp only [inputStep, hp]

theorem blockStep_sends {u : State} {c : Option Port} {p : Port} {x : Byte} {xs : List Byte} (hst : u.status = .run)
    (hq : u.outq = .holding p x xs) : blockStep c u = .moved (txStep p x xs u) := by
  simp only [blockStep, hst, hq]

theorem blockStep_input {u : State} {c : Option Port} (hst : u.status = .run) (hq : u.outq = .empty) :
    blockStep c u = inputStep c u := by
  simp only [blockStep, hst, hq]

/-- A step of the block that serves an event is that event's receive path after the event is consumed. -/
theorem fetch_of_serves {s : State} {p : Port} {e : RxEvent} (h : s.Serves p e) :
    fetch s = serve p e (s.consumed p) := by
  obtain ⟨⟨hrun, hq⟩, ⟨c, hc, hp⟩, hrx⟩ := h
  obtain ⟨es, hes⟩ : ∃ es, (s.port p).rx = e :: es := by
    cases hr : (s.port p).rx with
    | nil => simp [hr] at hrx
    | cons x xs =>
      simp only [hr, List.head?_cons, Option.some.injEq] at hrx
      exact ⟨xs, by rw [hrx]⟩
  rw [fetch_of_blockChoice hc, State.consumed_eq]
  have hp' : ({ s with agenda := s.agenda.tail } : State).choosePort c = some p := hp
  have hes' : (({ s with agenda := s.agenda.tail } : State).port p).rx = e :: es := by
    rcases p with _ | _ | _ <;> exact hes
  rw [blockStep_input (u := { s with agenda := s.agenda.tail }) hrun hq]
  exact inputStep_of_choice hp' hes'

theorem step_of_serves {s : State} {p : Port} {e : RxEvent} (h : s.Serves p e) :
    step s = (serve p e (s.consumed p)).outcome := by
  rw [step_eq, fetch_of_serves h]

/-! ## The inversion of step -/

/-- What a step that answers a next state was. -/
inductive StepKind (s t : State) : Prop where
  | offered (p : Port) (e : RxEvent) (ts : List Turn) (agenda : s.agenda = .offer p e :: ts)
      (eq : t = offerMove p e { s with agenda := ts })
  | accepted (p : Port) (c : TxCondition) (ts : List Turn) (agenda : s.agenda = .accept p c :: ts)
      (eq : t = acceptMove p c { s with agenda := ts })
  | timed (v : Word64) (ts : List Turn) (agenda : s.agenda = .time v :: ts) (eq : t = timeMove v { s with agenda := ts })
  | sent (c : Option Port) (p : Port) (x : Byte) (xs : List Byte) (choice : s.blockChoice = some c)
      (run : s.status = .run) (outq : s.outq = .holding p x xs)
      (eq : t = txStep p x xs { s with agenda := s.agenda.tail })
  | waited (c : Option Port) (choice : s.blockChoice = some c) (serve : s.CanServe) (none : s.choosePort c = none)
      (eq : t = { s with agenda := s.agenda.tail })
  | served (p : Port) (e : RxEvent) (serves : s.Serves p e) (eq : (serve p e (s.consumed p)).outcome = .next t)

theorem step_cases {s t : State} (h : step s = .next t) : StepKind s t := by
  rw [step_eq] at h
  cases hc : s.blockChoice with
  | none =>
    cases ha : s.agenda with
    | nil => simp [State.blockChoice, ha] at hc
    | cons turn ts =>
      cases turn with
      | block q => simp [State.blockChoice, ha] at hc
      | offer p e =>
        simp only [fetch, ha, Fetched.outcome, Host.Outcome.next.injEq] at h
        exact .offered p e ts ha h.symm
      | accept p c =>
        simp only [fetch, ha, Fetched.outcome, Host.Outcome.next.injEq] at h
        exact .accepted p c ts ha h.symm
      | time v =>
        simp only [fetch, ha, Fetched.outcome, Host.Outcome.next.injEq] at h
        exact .timed v ts ha h.symm
  | some c =>
    have hf := fetch_of_blockChoice hc
    cases hst : s.status with
    | halted => simp [hf, blockStep, hst, Fetched.outcome] at h
    | faulted => simp [hf, blockStep, hst, Fetched.outcome] at h
    | run =>
      cases hq : s.outq with
      | holding p x xs =>
        rw [hf, blockStep_sends (u := { s with agenda := s.agenda.tail }) hst hq] at h
        simp only [Fetched.outcome, Host.Outcome.next.injEq] at h
        exact .sent c p x xs hc hst hq h.symm
      | empty =>
        cases hp : s.choosePort c with
        | none =>
          have hw : inputStep c { s with agenda := s.agenda.tail } = .moved { s with agenda := s.agenda.tail } :=
            inputStep_waits hp
          rw [hf, blockStep_input (u := { s with agenda := s.agenda.tail }) hst hq, hw] at h
          simp only [Fetched.outcome, Host.Outcome.next.injEq] at h
          exact .waited c hc ⟨hst, hq⟩ hp h.symm
        | some p =>
          obtain ⟨-, e, es, hes⟩ := State.offers_of_ready (State.choosePort_ready hp)
          have hserves : s.Serves p e := ⟨⟨hst, hq⟩, ⟨c, hc, hp⟩, by rw [hes]; rfl⟩
          rw [fetch_of_serves hserves] at h
          exact .served p e hserves h

/-! ## The moves of the peers -/

/-- A peer that exists moves its own port. -/
theorem State.peerMove_live {s : State} {p : Port} (c : PortContents) (h : s.live p = true) :
    s.peerMove p c = s.setPort p c := by
  simp [State.peerMove, h]

/-- A peer that does not exist does not move. -/
theorem State.peerMove_absent {s : State} {p : Port} (c : PortContents) (h : s.live p = false) : s.peerMove p c = s := by
  simp [State.peerMove, h]

/-- A port is absent exactly when it is A1's and there is one bus (R53). -/
theorem State.live_eq_false_iff (s : State) (p : Port) :
    s.live p = false ↔ p = .adapter .a1 ∧ s.cfg.numBuses = .one := by
  rcases p with _ | _ | _ <;> cases h : s.cfg.numBuses <;> simp [State.live, connPresent, h]

/-- A port is live exactly when it is not A1's, or there are two buses (R53). -/
theorem State.live_iff (s : State) (p : Port) : s.live p = true ↔ (p = .adapter .a1 → s.cfg.numBuses = .two) := by
  rcases p with _ | _ | _ <;> cases h : s.cfg.numBuses <;> simp [State.live, connPresent, h]

/-- The move of a peer touches only its port. -/
theorem State.peerMove_frame (s : State) (p : Port) (c : PortContents) :
    s.peerMove p c = { s with
      portC := (s.peerMove p c).portC, portA0 := (s.peerMove p c).portA0, portA1 := (s.peerMove p c).portA1 } := by
  unfold State.peerMove
  split
  · rcases p with _ | _ | _ <;> rfl
  · rfl

/-- All a turn of an environment agent can do: it writes ports or `TIMER`, and its turn is taken. -/
theorem step_env_frame {s t : State} (h : step s = .next t) (hb : s.blockChoice = none) :
    t = { s with timer := t.timer, portC := t.portC, portA0 := t.portA0, portA1 := t.portA1, agenda := t.agenda } := by
  cases step_cases h with
  | offered p e ts _ eq =>
    rw [eq, offerMove, State.peerMove_frame]
  | accepted p c ts _ eq =>
    rw [eq, acceptMove, State.peerMove_frame]
  | timed v ts _ eq => rw [eq]; rfl
  | sent c _ _ _ hc => rw [hb] at hc; cases hc
  | waited c hc => rw [hb] at hc; cases hc
  | served p e hs =>
    obtain ⟨-, ⟨c, hc, -⟩, -⟩ := hs
    rw [hb] at hc
    cases hc

/-- A turn of the block answers a next state only in `STATUS = RUN` (R220). -/
theorem status_of_block_step {s t : State} {c : Option Port} (h : step s = .next t) (hb : s.blockChoice = some c) :
    s.status = .run := by
  rw [step_eq, fetch_of_blockChoice hb] at h
  cases hs : s.status with
  | run => rfl
  | halted => simp [blockStep, hs, Fetched.outcome] at h
  | faulted => simp [blockStep, hs, Fetched.outcome] at h

/-! ## The byte steps -/

/-- What serving an event that answers a next state was: a read error, a byte collected, or an instruction run. -/
inductive ServeKind (u t : State) : Port → RxEvent → Prop where
  | clientError (eq : t = clientReadError u) : ServeKind u t .client .err
  | adapterError (c : Conn) (eq : t = adapterReadError c u) : ServeKind u t (.adapter c) .err
  | clientCollected (b : Byte) (byte : clientByte b u = .moved t) : ServeKind u t .client (.byte b)
  | adapterCollected (c : Conn) (b : Byte) (byte : adapterByte c b u = .moved t) : ServeKind u t (.adapter c) (.byte b)
  | clientRan (b : Byte) (i : Instr) (v : State) (byte : clientByte b u = .run i v) (ran : exec i v = .next t) :
      ServeKind u t .client (.byte b)
  | adapterRan (c : Conn) (b : Byte) (i : Instr) (v : State) (byte : adapterByte c b u = .run i v)
      (ran : exec i v = .next t) : ServeKind u t (.adapter c) (.byte b)

theorem clientByte_not_stop (b : Byte) (u : State) (r : Fault) : clientByte b u ≠ .stop r := by
  unfold clientByte idleByte dispatchByte headerByte payloadByte
  repeat' split
  all_goals simp

theorem adapterByte_not_stop (c : Conn) (b : Byte) (u : State) (r : Fault) : adapterByte c b u ≠ .stop r := by
  unfold adapterByte
  dsimp only
  split <;> simp

theorem serve_cases {p : Port} {e : RxEvent} {u t : State} (h : (serve p e u).outcome = .next t) : ServeKind u t p e := by
  cases p with
  | client =>
    cases e with
    | err =>
      simp only [serve, Fetched.outcome, Host.Outcome.next.injEq] at h
      exact .clientError h.symm
    | byte b =>
      simp only [serve] at h
      cases hb : clientByte b u with
      | stop r => exact absurd hb (clientByte_not_stop b u r)
      | moved v =>
        simp only [hb, Fetched.outcome, Host.Outcome.next.injEq] at h
        exact .clientCollected b (h ▸ hb)
      | run i v =>
        simp only [hb, Fetched.outcome] at h
        exact .clientRan b i v hb h
  | adapter c =>
    cases e with
    | err =>
      simp only [serve, Fetched.outcome, Host.Outcome.next.injEq] at h
      exact .adapterError c h.symm
    | byte b =>
      simp only [serve] at h
      cases hb : adapterByte c b u with
      | stop r => exact absurd hb (adapterByte_not_stop c b u r)
      | moved v =>
        simp only [hb, Fetched.outcome, Host.Outcome.next.injEq] at h
        exact .adapterCollected c b (h ▸ hb)
      | run i v =>
        simp only [hb, Fetched.outcome] at h
        exact .adapterRan c b i v hb h

/-- A collected client byte moves only `CPS`, `CBUF` and the model's latch. -/
theorem clientByte_moved_frame {b : Byte} {u t : State} (h : clientByte b u = .moved t) :
    t = { u with cps := t.cps, cbuf := t.cbuf, cidLatch := t.cidLatch } := by
  unfold clientByte idleByte dispatchByte headerByte payloadByte at h
  repeat' split at h
  all_goals first | (cases h; rfl) | cases h

/-- A completing client byte has moved only `CBUF` when the meaning runs. -/
theorem clientByte_run_frame {b : Byte} {u v : State} {i : Instr} (h : clientByte b u = .run i v) :
    v = { u with cbuf := v.cbuf } := by
  unfold clientByte idleByte dispatchByte headerByte payloadByte at h
  repeat' split at h
  all_goals first | (cases h; rfl) | cases h

theorem adapterByte_moved_frame {c : Conn} {b : Byte} {u t : State} (h : adapterByte c b u = .moved t) :
    t = u.setAdapterRx c (t.adapterRx c) := by
  unfold adapterByte at h
  dsimp only at h
  split at h
  · cases h
    simp
  · cases h

theorem adapterByte_run_frame {c : Conn} {b : Byte} {u v : State} {i : Instr} (h : adapterByte c b u = .run i v) :
    v = u.setAdapterRx c ⟨(u.adapterRx c).acnt, (v.adapterRx c).abuf⟩ := by
  unfold adapterByte at h
  dsimp only at h
  split at h
  · cases h
  · cases h
    simp

/-- Where the next turn names a ready port, that port is served. -/
theorem State.serves_of_turn {s : State} {p : Port} {e : RxEvent} {ts : List Turn} (hs : s.CanServe)
    (ha : s.agenda = .block p :: ts) (hl : s.live p = true) (he : (s.port p).rx.head? = some e) : s.Serves p e := by
  have hr : s.readyPort p = true := by
    cases hrx : (s.port p).rx with
    | nil => simp [hrx] at he
    | cons x xs => simp [State.readyPort, hl, hrx]
  exact ⟨hs, ⟨some p, by simp [State.blockChoice, ha], by simp [State.choosePort, hr]⟩, he⟩

/-- Serving an event always answers a next state. -/
theorem serves_next {s : State} {p : Port} {e : RxEvent} (h : s.Serves p e) : ∃ t, step s = .next t := by
  rw [step_of_serves h]
  cases hs : serve p e (s.consumed p) with
  | stop r =>
    exfalso
    cases p <;> cases e <;> simp [serve] at hs
    · exact clientByte_not_stop _ _ _ hs
    · exact adapterByte_not_stop _ _ _ _ hs
  | moved t => exact ⟨t, rfl⟩
  | run i t => exact exec_next i t

/-- No meaning touches a port. -/
theorem exec_port {i : Instr} {s t : State} (h : exec i s = .next t) (p : Port) : t.port p = s.port p := by
  have hf := exec_frame h
  unfold OnlyMeaning at hf
  rw [hf]
  rcases p with _ | _ | _ <;> rfl

/-! ## Buffers -/

theorem take_set {n : Nat} (B : Vector Byte n) (k : Nat) (hk : k < n) (b : Byte) :
    (B.set k b).toList.take (k + 1) = B.toList.take k ++ [b] := by
  apply List.ext_getElem
  · simp; omega
  · intro j h1 h2
    simp [List.getElem_append, Vector.getElem_set]
    simp at h2
    split <;> rename_i hj
    · rw [dif_neg (by omega)]
    · rw [dif_pos (by omega)]

theorem drop_set {n : Nat} (B : Vector Byte n) (k : Nat) (hk : k < n) (b : Byte) :
    (B.set k b).toList.drop (k + 1) = B.toList.drop (k + 1) := by
  apply List.ext_getElem
  · simp
  · intro j h1 h2
    simp [Vector.getElem_set]
    intro h
    omega

/-- The header and the payload of `CBUF`. -/
theorem take_six (B : Vector Byte 14) (n : Nat) : B.toList.take (6 + n) =
    B[0] :: B[1] :: B[2] :: B[3] :: B[4] :: B[5] :: (B.toList.drop 6).take n := by
  obtain ⟨⟨l⟩, hl⟩ := B
  simp at hl
  match l, hl with
  | b0 :: b1 :: b2 :: b3 :: b4 :: b5 :: p, hl =>
    show List.take (6 + n) (b0 :: b1 :: b2 :: b3 :: b4 :: b5 :: p) = b0 :: b1 :: b2 :: b3 :: b4 :: b5 :: List.take n p
    rw [Nat.add_comm]
    rfl

/-- The instruction in a full `ABUF[c]` is the one the decoder reads from it. -/
theorem decode_framed (c : Conn) (B : Vector Byte 13) : decode (.adapter c) B.toList = .ok (framedInstr c B, []) := by
  obtain ⟨⟨l⟩, hl⟩ := B
  simp at hl
  match l, hl with
  | b0 :: b1 :: b2 :: b3 :: b4 :: p, hl =>
    simp at hl
    have hp : p.length = 8 := by omega
    have ht : p.take 8 = p := List.take_of_length_le hp.le
    simp [decode, decodeAdapter, hp, framedInstr, ht]

end Sys2Proof.Machine
end

