-- ==== Sys2Proof/Tests/Slice0.lean ====
section
/-! SUPPORT. Tests of the model: well-formedness, decoding of words written out from the spec's encodings, one step or meaning
on the vectors of 95_test_vectors.md, and for each statement with hypotheses a witness that meets them. -/

namespace Sys2Proof.Tests

open Sys2Proof Sys2Proof.Machine

/-! ## Parameters and states -/

/-- The parameters of the analysis-decoder vectors: two buses, the illustrative map, `ignore` and `drop`. -/
def two : Params := ⟨.two, 500000, #v[0x07, 0x6A, 0x02, 0x20, 0x00, 0x00, 0x00], .illustrative, .drop, .ignore⟩

/-- One bus, the as-written map, `ignore` and `drop` (GW3, P3). -/
def one : Params := ⟨.one, 500000, #v[0x07, 0x6A, 0x02, 0x20, 0x00, 0x00, 0x00], .asWritten, .drop, .ignore⟩

/-- One bus, the as-written map, both policies `fault` (GW4, P6). -/
def strict : Params := ⟨.one, 500000, #v[0x07, 0x6A, 0x02, 0x20, 0x00, 0x00, 0x00], .asWritten, .fault, .fault⟩

/-- After reset, a port offering events and the block's turn to take one. -/
def offering (c : Params) (p : Port) (es : List RxEvent) : State :=
  { State.resetWith c with agenda := [.block p] }.setPort p ⟨es, .ready, []⟩

/-- After reset, `OUTQ` holding a response, the client's transmit half in a condition, and three turns of the block. -/
def sending (x : TxCondition) : State :=
  { State.resetWith two with
    outq := .holding .client 0xF1 [0x0C, 0x02]
    agenda := [.block .client, .block (.adapter .a0), .block .client]
    portC := ⟨[.byte 0xE7], x, []⟩ }

/-- The client parser inside the header of a command with identifier 0x0F, `h[5]` next. -/
def inHeader (b : Byte) : State :=
  { offering two .client [.byte b] with
    cps := .hdr 5, cidLatch := 0x0F, cbuf := #v[0x23, 0x01, 0, 0, 0xFC, 0, 0, 0, 0, 0, 0, 0, 0, 0] }

/-- The client parser inside the payload of a BuildCanFrame of two bytes, byte `k` of it next. -/
def inPayload (k : Fin 8) : State :=
  { offering two .client [.byte 0xBB] with
    cps := .pay k 2, cbuf := #v[0x01, 0, 0, 0, 0, 0x02, 0xAA, 0, 0, 0, 0, 0, 0, 0] }

/-- Connection A0 with `n` bytes of a frame in `ABUF[0]`, the next one offered. -/
def inFrame (n : Fin 13) : State :=
  { offering two (.adapter .a0) [.byte 0x00] with
    rx0 := ⟨n, #v[0x82, 0, 0, 0x07, 0xFF, 0x11, 0x22, 0, 0, 0, 0, 0, 0]⟩ }

/-- One field of the next state, if there is one. -/
def after {α : Type} (o : Host.Outcome State Fault Refusal) (f : State → α) : Option α :=
  match o with
  | .next t => some (f t)
  | .fault _ => none
  | .refused _ => none

/-- `bytes` for a destination, with its first byte apart. -/
abbrev sends (p : Port) (x : Byte) (xs : List Byte) : Option OutQ := some (.holding p x xs)

/-! ## Well-formedness -/

theorem test_wf_refuses_build_data_too_short : (Instr.cmdBuild ⟨1, 0, 0, 0, 2, [0xAA]⟩).wf = false := by decide
theorem test_wf_refuses_build_data_past_eight :
    (Instr.cmdBuild ⟨1, 0, 0, 0, 15, [1, 2, 3, 4, 5, 6, 7, 8, 9]⟩).wf = false := by decide
theorem test_wf_refuses_unknown_low_identifier_outside : (Instr.cmdUnknown0F13 0x14 ⟨1, 0, 0, 0, 0, []⟩).wf = false := by decide
theorem test_wf_refuses_unknown_low_data : (Instr.cmdUnknown0F13 0x0F ⟨1, 0, 0, 0, 1, []⟩).wf = false := by decide
theorem test_wf_refuses_unknown_high_identifier_outside : (Instr.cmdUnknown17FF 0x16 ⟨1, 0, 0, 0, 0, []⟩).wf = false := by decide
theorem test_wf_refuses_unknown_high_data : (Instr.cmdUnknown17FF 0xFF ⟨1, 0, 0, 0, 1, []⟩).wf = false := by decide
theorem test_wf_refuses_stray_command_lead_byte : (Instr.stray 0xF1).wf = false := by decide
theorem test_wf_refuses_data_frame_of_seven : (Instr.adpData .a0 ⟨false, 0, 0, 0, zeros 7⟩).wf = false := by decide
theorem test_wf_refuses_remote_frame_of_nine : (Instr.adpRemote .a1 ⟨false, 0, 0, 0, zeros 9⟩).wf = false := by decide
theorem test_stream_refuses_handshake_after_binary : Stream.admits (.client .binary) .hs = false := by decide
theorem test_stream_refuses_stray_handshake_byte_in_init : Stream.admits (.client .init) (.stray 0xE7) = false := by decide
theorem test_stream_refuses_other_connection :
    Stream.admits (.adapter .a1) (.adpData .a0 ⟨false, 0, 0, 0, zeros 8⟩) = false := by decide
theorem test_stream_refuses_command_on_adapter : Stream.admits (.adapter .a0) .cmdKeepalive = false := by decide

/-! ## Decoding: a word of every row, from the encodings of 30_encoding.md and spec/opcode_table.json -/

theorem test_decode_hs : decode (.client .init) [0xE7] = .ok (.hs, []) := by rfl
theorem test_decode_build : decode (.client .init) [0xF1, 0x00, 0xFF, 0xFF, 0xFF, 0x9F, 0x02, 0x08, 1, 2, 3, 4, 5, 6, 7, 8] =
    .ok (.cmdBuild ⟨0x9FFFFFFF, 0, 2, 0, 8, [1, 2, 3, 4, 5, 6, 7, 8]⟩, []) := by rfl
theorem test_decode_timesync : decode (.client .init) [0xF1, 0x01] = .ok (.cmdTimesync, []) := by rfl
theorem test_decode_canparams : decode (.client .init) [0xF1, 0x06] = .ok (.cmdCanparams, []) := by rfl
theorem test_decode_devinfo : decode (.client .init) [0xF1, 0x07] = .ok (.cmdDevinfo, []) := by rfl
theorem test_decode_keepalive : decode (.client .init) [0xF1, 0x09] = .ok (.cmdKeepalive, []) := by rfl
theorem test_decode_numbuses : decode (.client .init) [0xF1, 0x0C] = .ok (.cmdNumbuses, []) := by rfl
theorem test_decode_extbuses : decode (.client .init) [0xF1, 0x0D] = .ok (.cmdExtbuses, []) := by rfl
theorem test_decode_rsvd02 : decode (.client .init) [0xF1, 0x02] = .ok (.rsvd02, []) := by rfl
theorem test_decode_rsvd03 : decode (.client .init) [0xF1, 0x03] = .ok (.rsvd03, []) := by rfl
theorem test_decode_rsvd04 : decode (.client .init) [0xF1, 0x04] = .ok (.rsvd04, []) := by rfl
theorem test_decode_rsvd05 : decode (.client .init) [0xF1, 0x05] = .ok (.rsvd05, []) := by rfl
theorem test_decode_rsvd08 : decode (.client .init) [0xF1, 0x08] = .ok (.rsvd08, []) := by rfl
theorem test_decode_rsvd0A : decode (.client .init) [0xF1, 0x0A] = .ok (.rsvd0A, []) := by rfl
theorem test_decode_rsvd0B : decode (.client .init) [0xF1, 0x0B] = .ok (.rsvd0B, []) := by rfl
theorem test_decode_rsvd0E : decode (.client .init) [0xF1, 0x0E] = .ok (.rsvd0E, []) := by rfl
theorem test_decode_rsvd14 : decode (.client .init) [0xF1, 0x14] = .ok (.rsvd14, []) := by rfl
theorem test_decode_rsvd15 : decode (.client .init) [0xF1, 0x15] = .ok (.rsvd15, []) := by rfl
theorem test_decode_rsvd16 : decode (.client .init) [0xF1, 0x16] = .ok (.rsvd16, []) := by rfl
theorem test_decode_unknown_low : decode (.client .init)
    [0xF1, 0x0F, 0x23, 0x01, 0x00, 0x00, 0xFC, 0x1F, 0xE7, 0xF1, 9, 9, 9, 9, 9, 9] =
    .ok (.cmdUnknown0F13 0x0F ⟨0x123, 0x3F, 0, 1, 15, [0xE7, 0xF1, 9, 9, 9, 9, 9, 9]⟩, []) := by rfl
theorem test_decode_unknown_high : decode (.client .init) [0xF1, 0xF1, 0x01, 0x00, 0x00, 0x00, 0x00, 0x00, 0x55] =
    .ok (.cmdUnknown17FF 0xF1 ⟨1, 0, 0, 0, 0, []⟩, [0x55]) := by rfl
theorem test_decode_stray : decode (.client .binary) [0xE7, 0xF1] = .ok (.stray 0xE7, [0xF1]) := by rfl
theorem test_decode_adp_data : decode (.adapter .a0) [0xB8, 0, 0, 0, 0, 1, 2, 3, 4, 5, 6, 7, 8] =
    .ok (.adpData .a0 ⟨true, 3, 8, 0, [1, 2, 3, 4, 5, 6, 7, 8]⟩, []) := by rfl
theorem test_decode_adp_remote : decode (.adapter .a1) [0x44, 0, 0, 0x01, 0x23, 0, 0, 0, 0, 0, 0, 0, 0] =
    .ok (.adpRemote .a1 ⟨false, 0, 4, 0x123, [0, 0, 0, 0, 0, 0, 0, 0]⟩, []) := by rfl
theorem test_decode_names_a_short_header : decode (.client .init) [0xF1, 0x00, 1, 2, 3, 4, 5] = .error .shortHeader := by rfl
theorem test_notation_build : notationBuild 1 1 true [0xAA, 0xBB] = [0xF1, 0x00, 0x01, 0x00, 0x00, 0x80, 0x01, 0x02, 0xAA, 0xBB] := by
  decide
theorem test_notation_adapter : notationAdpData 0x7FF true [0x11, 0x22] = [0x82, 0, 0, 0x07, 0xFF, 0x11, 0x22, 0, 0, 0, 0, 0, 0] ∧
    notationAdpRemote 0x123 false 4 = [0x44, 0, 0, 0x01, 0x23, 0, 0, 0, 0, 0, 0, 0, 0] := by decide

/-! The table's words: the two numberings of log entry 14, operand words of zeros, and a 13-byte row. -/

theorem test_table_word : decodeTableWord 16 0xF10E = some .rsvd0E := by rfl
theorem test_table_word_last_byte_first : decodeTableWord 16 0x0EF1 = some .rsvd0E := by rfl
theorem test_table_word_without_operands : decodeTableWord 16 0xF113 = some (.cmdUnknown0F13 0x13 ⟨0, 0, 0, 0, 0, []⟩) := by rfl
theorem test_table_word_remote :
    decodeTableWord 104 0x40000000000000000000000000 = some (.adpRemote .a0 ⟨false, 0, 0, 0, [0, 0, 0, 0, 0, 0, 0, 0]⟩) := by rfl
theorem test_fetch_word_runs_keepalive :
    after (step (State.reset.withFetchWord 16 0xF109)) (·.outq) = sends .client 0xF1 [0x09, 0xDE, 0xAD] := by rfl
theorem test_fetch_word_runs_remote :
    after (step (State.reset.withFetchWord 104 0x40000000000000000000000000)) (·.evlog) = some [.telemetryReject .a0] := by rfl

/-! ## The meanings, on the vectors of 95_test_vectors.md -/

-- AD1, AD2
theorem test_hs_sets_binary : after (exec .hs (State.resetWith two)) (·.mode) = some .binary := by decide
-- AD2: the second 0xE7
theorem test_stray_keeps_the_state :
    exec (.stray 0xE7) { State.resetWith two with mode := .binary } = .next { State.resetWith two with mode := .binary } := by rfl
-- AD10
theorem test_build_extended_small_id :
    after (exec (.cmdBuild ⟨0x80000001, 0, 0, 0, 0, []⟩) (State.resetWith two)) (·.outq) =
      sends (.adapter .a0) 0x80 [0, 0, 0, 1, 0, 0, 0, 0, 0, 0, 0, 0] := by decide
-- GW3
theorem test_build_dropped_when_unroutable :
    after (exec (.cmdBuild ⟨1, 0, 0, 0, 2, [0xAA, 0xBB]⟩) (State.resetWith one)) (fun t => (t.outq, t.evlog)) =
      some (.empty, [.unroutable 0]) := by decide
-- AD14
theorem test_unknown_low_is_build :
    after (exec (.cmdUnknown0F13 0x0F ⟨0x123, 0x3F, 0, 1, 15, [0xE7, 0xF1, 9, 9, 9, 9, 9, 9]⟩) (State.resetWith two)) (·.outq) =
      sends (.adapter .a0) 0x08 [0, 0, 1, 0x23, 0xE7, 0xF1, 9, 9, 9, 9, 9, 9] := by decide
-- AD13
theorem test_unknown_low_identifier_too_long :
    after (exec (.cmdUnknown0F13 0x0F ⟨0xA0000000, 0, 0, 0, 0, []⟩) (State.resetWith two)) (fun t => (t.outq, t.evlog)) =
      some (.empty, [.idTooLongClient 0xA0000000]) := by decide
-- AD6
theorem test_unknown_high_is_build :
    after (exec (.cmdUnknown17FF 0xF1 ⟨1, 0, 0, 0, 0, []⟩) (State.resetWith two)) (·.outq) =
      sends (.adapter .a0) 0x00 [0, 0, 0, 1, 0, 0, 0, 0, 0, 0, 0, 0] := by decide
-- GW4
theorem test_unknown_high_faults_when_unroutable :
    after (exec (.cmdUnknown17FF 0xFF ⟨1, 0, 0, 0, 2, [0xAA, 0xBB]⟩) (State.resetWith strict)) (fun t => (t.status, t.cause)) =
      some (.faulted, .unroutable 0) := by decide
-- AD17
theorem test_timesync : after (exec .cmdTimesync { State.resetWith two with timer := 0x1E240 }) (·.outq) =
    sends .client 0xF1 [0x01, 0x40, 0xE2, 0x01, 0x00] := by decide
-- AE4
theorem test_timesync_drops_the_high_half :
    after (exec .cmdTimesync { State.resetWith two with timer := 0x123456789 }) (·.outq) =
      sends .client 0xF1 [0x01, 0x89, 0x67, 0x45, 0x23] := by decide
-- AE5
theorem test_canparams_one_bus : after (exec .cmdCanparams (State.resetWith one)) (·.outq) =
    sends .client 0xF1 [0x06, 0x01, 0x20, 0xA1, 0x07, 0x00] := by decide
-- AE6
theorem test_canparams_two_buses : after (exec .cmdCanparams (State.resetWith two)) (·.outq) =
    sends .client 0xF1 [0x06, 0x01, 0x20, 0xA1, 0x07, 0x00, 0x01, 0x20, 0xA1, 0x07, 0x00] := by decide
-- AE7, on the hardware's own parameters
theorem test_devinfo : after (exec .cmdDevinfo State.reset) (·.outq) =
    sends .client 0xF1 [0x07, 0x6A, 0x02, 0x20, 0x00, 0x00, 0x00] := by rfl
-- AE8
theorem test_keepalive : after (exec .cmdKeepalive { State.resetWith one with cps := .cmdid }) (fun t => (t.cps, t.outq)) =
    some (.idle, .holding .client 0xF1 [0x09, 0xDE, 0xAD]) := by decide
-- AE9
theorem test_numbuses : after (exec .cmdNumbuses (State.resetWith two)) (·.outq) = sends .client 0xF1 [0x0C, 0x02] := by decide
-- AE10
theorem test_extbuses : after (exec .cmdExtbuses (State.resetWith one)) (·.outq) =
    sends .client 0xF1 [0x0D, 0, 0, 0, 0, 0, 0, 0, 0, 0, 0, 0, 0, 0, 0, 0] := by decide
-- R141 to R151 under `ignore`
theorem test_rsvd02 : after (exec .rsvd02 (State.resetWith two)) (·.evlog) = some [.reservedCommand 0x02] := by decide
theorem test_rsvd03 : after (exec .rsvd03 (State.resetWith two)) (·.evlog) = some [.reservedCommand 0x03] := by decide
theorem test_rsvd04 : after (exec .rsvd04 (State.resetWith two)) (·.evlog) = some [.reservedCommand 0x04] := by decide
-- AD18
theorem test_rsvd05_ignored : after (exec .rsvd05 { State.resetWith two with cps := .cmdid }) (fun t => (t.cps, t.evlog)) =
    some (.idle, [.reservedCommand 0x05]) := by decide
-- AD19
theorem test_rsvd05_faults : after (exec .rsvd05 (State.resetWith strict)) (fun t => (t.status, t.cause)) =
    some (.faulted, .reservedCommand 0x05) := by decide
theorem test_rsvd08 : after (exec .rsvd08 (State.resetWith two)) (·.evlog) = some [.reservedCommand 0x08] := by decide
theorem test_rsvd0A : after (exec .rsvd0A (State.resetWith two)) (·.evlog) = some [.reservedCommand 0x0A] := by decide
theorem test_rsvd0B : after (exec .rsvd0B (State.resetWith two)) (·.evlog) = some [.reservedCommand 0x0B] := by decide
-- P6
theorem test_rsvd0E_faults : after (exec .rsvd0E (State.resetWith strict)) (fun t => (t.status, t.cause, t.evlog)) =
    some (.faulted, .reservedCommand 0x0E, [.reservedCommand 0x0E]) := by decide
theorem test_rsvd14 : after (exec .rsvd14 (State.resetWith two)) (·.evlog) = some [.reservedCommand 0x14] := by decide
theorem test_rsvd15 : after (exec .rsvd15 (State.resetWith two)) (·.evlog) = some [.reservedCommand 0x15] := by decide
theorem test_rsvd16 : after (exec .rsvd16 (State.resetWith two)) (·.evlog) = some [.reservedCommand 0x16] := by decide
-- AE14, P2 line 5
theorem test_adp_data_longest_telemetry :
    after (exec (.adpData .a0 ⟨true, 0, 8, 0x1FFFFFFF, [1, 2, 3, 4, 5, 6, 7, 8]⟩) { State.resetWith two with timer := 0x12345678 })
      (·.outq) = sends .client 0xF1
        [0x00, 0x78, 0x56, 0x34, 0x12, 0xFF, 0xFF, 0xFF, 0x9F, 0x08, 1, 2, 3, 4, 5, 6, 7, 8, 0x00] := by decide
-- AC7: the identifier check comes before the length 15
theorem test_adp_data_identifier_first :
    after (exec (.adpData .a0 ⟨true, 0, 15, 0x20000000, zeros 8⟩) (State.resetWith two)) (·.evlog) =
      some [.idTooLongAdapter .a0] := by decide
-- AC4
theorem test_adp_remote_sends_nothing :
    after (exec (.adpRemote .a1 ⟨false, 0, 4, 0x123, zeros 8⟩) (State.resetWith two)) (fun t => (t.outq, t.evlog)) =
      some (.empty, [.telemetryReject .a1]) := by decide
-- FM13
theorem test_adp_remote_too_long :
    after (exec (.adpRemote .a0 ⟨false, 0, 9, 0x7FF, zeros 8⟩) (State.resetWith two)) (·.evlog) = some [.dataTooLong .a0] := by decide

/-! ## The frame model and the adapter encoder -/

-- FM1 to FM4
theorem test_frame_identifier_boundaries :
    newData 0 0x7FF false [] = .ok (.data 0 0x7FF false []) ∧ newData 0 0x800 false [] = .error .idTooLong ∧
      newData 0 0x1FFFFFFF true [] = .ok (.data 0 0x1FFFFFFF true []) ∧ newData 0 0x20000000 true [] = .error .idTooLong :=
  ⟨rfl, rfl, rfl, rfl⟩
-- FM7, FM8
theorem test_frame_length_and_order :
    newData 1 0x10 false [1, 2, 3, 4, 5, 6, 7, 8, 9] = .error .dataTooLong ∧
      newData 0 0x800 false [1, 2, 3, 4, 5, 6, 7, 8, 9] = .error .idTooLong := ⟨rfl, rfl⟩
-- AC11 and the example of R106
theorem test_adapter_encode_remote : adapterEncode (.remote 0 0x123 false 4) = [0x44, 0, 0, 1, 0x23, 0, 0, 0, 0, 0, 0, 0, 0] := by decide
theorem test_frame_equality_excludes_bus :
    Frame.eqExclBus (.data 0 1 false [0xAA, 0xBB]) (.data 1 1 false [0xAA, 0xBB]) = true ∧
      Frame.eqExclBus (.data 0 1 false []) (.remote 0 1 false 0) = false := by decide

/-! ## The step -/

-- P5: the write error after two bytes
theorem test_step_write_error_halts :
    after (step { sending .error with outq := .holding .client 0xDE [0xAD] }) (fun t => (t.status, t.cause, t.outq)) =
      some (.halted, .writeError .client, .holding .client 0xDE [0xAD]) := by decide
-- GW8: head-of-line blocking
theorem test_step_stalled_output_blocks_input :
    after (step (sending .notReady)) (fun t => (t.outq, t.portC.rx)) =
      some (.holding .client 0xF1 [0x0C, 0x02], [.byte 0xE7]) := by decide
-- GW9: A1 is not live with one bus
theorem test_step_absent_connection_waits :
    after (step (offering one (.adapter .a1) [.byte 0x01])) (fun t => (t.portA1.rx, t.rx1.acnt)) = some ([.byte 0x01], 0) := by decide
-- R8, R53: with one bus there is no peer to offer on A1, and with two there is
theorem test_step_peer_of_an_absent_connection_does_not_move :
    after (step { State.resetWith one with agenda := [.offer (.adapter .a1) (.byte 0x01)] }) (fun t => (t.portA1, t.agenda)) =
      some (.quiet, []) ∧
    after (step { State.resetWith two with agenda := [.offer (.adapter .a1) (.byte 0x01)] }) (·.portA1.rx) =
      some [.byte 0x01] := by decide
-- AD20
theorem test_step_read_error_in_the_header :
    after (step { offering two .client [.err] with cps := .hdr 2 }) (fun t => (t.cps, t.evlog)) =
      some (.idle, [.clientReadError (.hdr 2)]) := by decide
-- AC13, AC14
theorem test_step_adapter_read_error :
    after (step { offering two (.adapter .a0) [.err] with rx0 := ⟨3, Vector.replicate 13 1⟩ }) (fun t => (t.rx0.acnt, t.evlog)) =
      some (0, [.adapterReadError .a0 3]) := by decide
-- AC1: the 13th byte
theorem test_step_thirteenth_byte :
    after (step (inFrame 12)) (fun t => (t.rx0.acnt, t.outq)) = some (0, .holding .client 0xF1
      [0x00, 0, 0, 0, 0, 0xFF, 0x07, 0x00, 0x80, 0x02, 0x11, 0x22, 0x00]) := by decide

/-! ## Witnesses: states and operands that meet the hypotheses of each statement -/

theorem serves_offering_client (c : Params) (b : Byte) : (offering c .client [.byte b]).Serves .client (.byte b) :=
  State.serves_of_turn ⟨rfl, rfl⟩ rfl rfl rfl

theorem serves_inHeader (b : Byte) : (inHeader b).Serves .client (.byte b) := State.serves_of_turn ⟨rfl, rfl⟩ rfl rfl rfl

theorem serves_inPayload (k : Fin 8) : (inPayload k).Serves .client (.byte 0xBB) :=
  State.serves_of_turn ⟨rfl, rfl⟩ rfl rfl rfl

theorem serves_inFrame (n : Fin 13) : (inFrame n).Serves (.adapter .a0) (.byte 0x00) :=
  State.serves_of_turn ⟨rfl, rfl⟩ rfl rfl rfl

theorem witness_IdleByteIsHandshakeOrStray : (0xE7#8 : Byte) ≠ 0xF1#8 ∧ (0xF0#8 : Byte) ≠ 0xF1#8 := by decide

/-- Length codes 0 and 15, with no byte and with exactly eight. -/
theorem witness_IdentifierSelectsItsRow :
    min ((0xF0 : Byte).toNat % 16) 8 ≤ ([] : List Byte).length ∧ min ((0xFF : Byte).toNat % 16) 8 ≤ (zeros 8).length := by decide

theorem witness_AdapterFieldsAreReadInPlace : (zeros 8).length = 8 := by decide

theorem witness_DecodeOfEncodeIsTheInstruction :
    (Instr.cmdBuild ⟨0xFFFFFFFF, 0x3F, 3, 0xF, 15, zeros 8⟩).wf = true ∧
      Stream.admits (.client .command) (.cmdBuild ⟨0xFFFFFFFF, 0x3F, 3, 0xF, 15, zeros 8⟩) = true ∧
      (Instr.cmdUnknown0F13 0x13 ⟨0, 0, 0, 0, 0, []⟩).wf = true ∧ (Instr.cmdUnknown17FF 0x17 ⟨0, 0, 0, 0, 0, []⟩).wf = true ∧
      Stream.admits (.client .init) .hs = true ∧ (Instr.stray 0xE7).wf = true ∧
      Stream.admits (.client .binary) (.stray 0xE7) = true ∧
      (Instr.adpRemote .a1 ⟨true, 3, 15, 0xFFFFFFFF, zeros 8⟩).wf = true ∧
      Stream.admits (.adapter .a1) (.adpRemote .a1 ⟨true, 3, 15, 0xFFFFFFFF, zeros 8⟩) = true := by decide

theorem witness_EncodeOfDecodeIsTheBytes :
    decode (.client .init) [0xF1, 0x17, 0, 0, 0, 0, 0, 0x11, 0xAA] = .ok (.cmdUnknown17FF 0x17 ⟨0, 0, 0, 1, 1, [0xAA]⟩, []) := by rfl

theorem witness_RejectedBytesAreUnfinished :
    decode (.client .init) [] = .error .empty ∧ decode (.client .binary) [0xF1] = .error .noIdentifier ∧
      decode (.client .init) [0xF1, 0x00, 0, 0, 0, 0, 0] = .error .shortHeader ∧
      decode (.client .init) [0xF1, 0x00, 0, 0, 0, 0, 0, 0x0F, 1, 2, 3, 4, 5, 6, 7] = .error .shortPayload ∧
      decode (.adapter .a1) (zeros 12) = .error .shortFrame := ⟨rfl, rfl, rfl, rfl, rfl⟩

theorem inv_inHeader : (inHeader 0x02).Inv := ⟨by decide, by decide, by decide, by decide, by decide⟩
theorem inv_inPayload : (inPayload 1).Inv := ⟨by decide, by decide, by decide, by decide, by decide⟩

theorem witness_StepRunsTheDecodedClientTransaction :
    (inPayload 1).Inv ∧ (inPayload 1).Serves .client (.byte 0xBB) ∧
      decode (.client (inPayload 1).mode) ((inPayload 1).clientBytes ++ [0xBB]) =
        .ok (.cmdBuild ⟨1, 0, 0, 0, 2, [0xAA, 0xBB]⟩, []) := ⟨inv_inPayload, serves_inPayload 1, rfl⟩

theorem witness_StepRunsTheDecodedAdapterFrame :
    (inFrame 12).Serves (.adapter .a0) (.byte 0x00) ∧
      (#v[0x82, 0, 0, 0x07, 0xFF, 0x11, 0x22, 0, 0, 0, 0, 0, 0x00] : Vector Byte 13).toList = (inFrame 12).adapterBytes .a0 ++ [0x00] ∧
      decode (.adapter .a0) (#v[0x82, 0, 0, 0x07, 0xFF, 0x11, 0x22, 0, 0, 0, 0, 0, 0x00] : Vector Byte 13).toList =
        .ok (.adpData .a0 ⟨true, 0, 2, 0x7FF, [0x11, 0x22, 0, 0, 0, 0, 0, 0]⟩, []) := ⟨serves_inFrame 12, rfl, rfl⟩

theorem witness_UnfinishedClientBytesAreCollected :
    (inHeader 0x02).Inv ∧ (inHeader 0x02).Serves .client (.byte 0x02) ∧
      decode (.client (inHeader 0x02).mode) ((inHeader 0x02).clientBytes ++ [0x02]) = .error .shortPayload :=
  ⟨inv_inHeader, serves_inHeader 0x02, rfl⟩

theorem witness_LeadByteOpensACommand_idle :
    (offering one .client [.byte 0xF1]).Serves .client (.byte 0xF1#8) ∧ (offering one .client [.byte 0xF1]).cps = .idle :=
  ⟨serves_offering_client one _, rfl⟩

theorem witness_LeadByteOpensACommand_cmdid :
    ({ offering one .client [.byte 0xF1] with cps := .cmdid } : State).Serves .client (.byte 0xF1#8) :=
  State.serves_of_turn ⟨rfl, rfl⟩ rfl rfl rfl

theorem witness_OperandIdentifierOpensTheHeader (cid : Byte) (_ : cid ∈ [0x00, 0x0F, 0x13, 0x17, 0xFF]) :
    ({ offering one .client [.byte cid] with cps := .cmdid } : State).Serves .client (.byte cid) ∧
      ((0x00#8 : Byte) = 0x00#8 ∧ (0x0F ≤ (0x0F : Byte).toNat ∧ (0x13 : Byte).toNat ≤ 0x13) ∧ 0x17 ≤ (0x17 : Byte).toNat) :=
  ⟨State.serves_of_turn ⟨rfl, rfl⟩ rfl rfl rfl, by decide⟩

theorem witness_HeaderByteIsStored_first :
    ({ inHeader 0x02 with cps := .hdr 4 } : State).Serves .client (.byte 0x02) ∧ (4 : Fin 6).val < 5 :=
  ⟨State.serves_of_turn ⟨rfl, rfl⟩ rfl rfl rfl, by decide⟩

theorem witness_HeaderByteIsStored_payload :
    (inHeader 0xFF).Serves .client (.byte 0xFF) ∧ (inHeader 0xFF).cps = .hdr 5 ∧ 0 < min ((0xFF : Byte).toNat % 16) 8 :=
  ⟨serves_inHeader _, rfl, by decide⟩

theorem witness_HeaderByteIsStored_complete :
    (inHeader 0xF0).Serves .client (.byte 0xF0) ∧ (inHeader 0xF0).cps = .hdr 5 ∧ min ((0xF0 : Byte).toNat % 16) 8 = 0 :=
  ⟨serves_inHeader _, rfl, by decide⟩

theorem witness_PayloadByteIsStored :
    (inPayload 0).Serves .client (.byte 0xBB) ∧ (inPayload 0).cps = .pay 0 2 ∧ (0 : Fin 8).val + 1 < (2 : Fin 9).val ∧
      (inPayload 1).Serves .client (.byte 0xBB) ∧ (inPayload 1).cps = .pay 1 2 ∧ (2 : Fin 9).val ≤ (1 : Fin 8).val + 1 :=
  ⟨serves_inPayload 0, rfl, by decide, serves_inPayload 1, rfl, by decide⟩

theorem witness_AdapterByteIsStored :
    (inFrame 11).Serves (.adapter .a0) (.byte 0x00) ∧ ((inFrame 11).adapterRx .a0).acnt.val < 12 ∧
      (inFrame 12).Serves (.adapter .a0) (.byte 0x00) ∧ ((inFrame 12).adapterRx .a0).acnt = 12 :=
  ⟨serves_inFrame 11, by decide, serves_inFrame 12, rfl⟩

theorem witness_ClientReadErrorDropsTheCommand :
    ({ offering two .client [.err] with cps := .pay 1 2 } : State).Serves .client .err :=
  State.serves_of_turn ⟨rfl, rfl⟩ rfl rfl rfl

theorem witness_AdapterReadErrorDropsTheFrame :
    ({ offering two (.adapter .a1) [.err] with rx1 := ⟨12, Vector.replicate 13 1⟩ } : State).Serves (.adapter .a1) .err :=
  State.serves_of_turn ⟨rfl, rfl⟩ rfl rfl rfl

/-- A whole client transaction offered from an idle parser, with a turn of the block for each byte. -/
def offeredKeepAlive : State :=
  { State.resetWith two with
    agenda := List.replicate 2 (.block .client)
    portC := ⟨[.byte 0xF1, .byte 0x09, .byte 0xE7], .ready, []⟩ }

theorem witness_TransactionRunsToItsMeaning_client :
    offeredKeepAlive.CanServe ∧ offeredKeepAlive.cps = .idle ∧ Instr.cmdKeepalive.wf = true ∧
      Stream.admits (.client offeredKeepAlive.mode) .cmdKeepalive = true ∧
      offeredKeepAlive.portC.rx = (encode .cmdKeepalive).map .byte ++ [.byte 0xE7] ∧
      offeredKeepAlive.agenda = List.replicate (encode .cmdKeepalive).length (.block .client) ++ [] :=
  ⟨⟨rfl, rfl⟩, rfl, rfl, rfl, rfl, rfl⟩

/-- A whole adapter frame offered on A1. -/
def offeredFrame : State :=
  { State.resetWith two with
    agenda := List.replicate 13 (.block (.adapter .a1))
    portA1 := ⟨[.byte 0x40, .byte 0, .byte 0, .byte 0, .byte 0, .byte 0, .byte 0, .byte 0, .byte 0, .byte 0, .byte 0, .byte 0,
      .byte 0], .ready, []⟩ }

theorem witness_TransactionRunsToItsMeaning_adapter :
    offeredFrame.CanServe ∧ (offeredFrame.adapterRx .a1).acnt = 0 ∧ offeredFrame.cfg.numBuses = .two ∧
      (Instr.adpRemote .a1 ⟨false, 0, 0, 0, zeros 8⟩).wf = true ∧
      Stream.admits (.adapter .a1) (.adpRemote .a1 ⟨false, 0, 0, 0, zeros 8⟩) = true ∧
      (offeredFrame.port (.adapter .a1)).rx = (encode (.adpRemote .a1 ⟨false, 0, 0, 0, zeros 8⟩)).map .byte ++ [] ∧
      offeredFrame.agenda =
        List.replicate (encode (.adpRemote .a1 ⟨false, 0, 0, 0, zeros 8⟩)).length (.block (.adapter .a1)) ++ [] :=
  ⟨⟨rfl, rfl⟩, rfl, rfl, rfl, rfl, rfl, rfl⟩

/-- The state after reset can serve: the hypothesis of every statement about a meaning, in both modes of HS. -/
theorem witness_CanServe (c : Params) (m : Mode) : ({ State.resetWith c with mode := m } : State).CanServe := ⟨rfl, rfl⟩

theorem witness_BuildCanFrameIsRoutedOrRecorded :
    buildOps (.cmdBuild ⟨0x20000000, 0, 3, 0, 8, zeros 8⟩) = some ⟨0x20000000, 0, 3, 0, 8, zeros 8⟩ ∧
      (Instr.cmdBuild ⟨0x20000000, 0, 3, 0, 8, zeros 8⟩).wf = true ∧
      buildOps (.cmdUnknown0F13 0x0F ⟨0x7FF, 0, 0, 0, 0, []⟩) = some ⟨0x7FF, 0, 0, 0, 0, []⟩ ∧
      (Instr.cmdUnknown0F13 0x0F ⟨0x7FF, 0, 0, 0, 0, []⟩).wf = true ∧
      buildOps (.cmdUnknown17FF 0xFF ⟨0x800, 0, 1, 0, 0, []⟩) = some ⟨0x800, 0, 1, 0, 0, []⟩ ∧
      (Instr.cmdUnknown17FF 0xFF ⟨0x800, 0, 1, 0, 0, []⟩).wf = true ∧
      (State.resetWith one).cfg.routeMap.bus1 = .a1 ∧ (State.resetWith one).cfg.numBuses = .one ∧
      (State.resetWith one).cfg.unroutablePolicy = .drop ∧ (State.resetWith strict).cfg.unroutablePolicy = .fault := by decide

theorem witness_ReservedCommandsFollowThePolicy :
    (Instr.rsvd16, (0x16 : Byte)) ∈ ([(.rsvd02, 0x02), (.rsvd16, 0x16)] : List (Instr × Byte)) ∧
      (State.resetWith two).cfg.reservedPolicy = .ignore ∧ (State.resetWith strict).cfg.reservedPolicy = .fault := by decide

theorem witness_AdapterDataBecomesTelemetry :
    (AdapterOperands.mk false 0 15 0x800 (zeros 8)).wf = true ∧ (AdapterOperands.mk true 3 8 0x1FFFFFFF (zeros 8)).wf = true ∧
      (AdapterOperands.mk false 0 9 0x7FF (zeros 8)).wf = true := by decide

theorem witness_MeaningsKeepWhatTheirRulesDoNotList :
    (State.resetWith two).CanServe ∧
      exec (.cmdUnknown17FF 0xFF ⟨1, 0, 0, 0, 0, []⟩) (State.resetWith two) = .next (buildComplete ⟨1, 0, 0, 0, 0, []⟩ (State.resetWith two)) ∧
      (buildOps (.cmdUnknown17FF 0xFF ⟨1, 0, 0, 0, 0, []⟩)).isSome = true :=
  ⟨⟨rfl, rfl⟩, rfl, rfl⟩

theorem witness_TransactionProducesOneServiceForOnePort :
    Instr.cmdExtbuses.wf = true ∧ ∃ t, exec .cmdExtbuses (State.resetWith two) = .next t ∧
      t.outq = .holding .client 0xF1 [0x0D, 0, 0, 0, 0, 0, 0, 0, 0, 0, 0, 0, 0, 0, 0, 0] := ⟨rfl, _, rfl, rfl⟩

theorem witness_AdapterCodecRoundTrip :
    (Frame.data 3 0x1FFFFFFF true (zeros 8)).valid = true ∧ (Frame.remote 0 0x7FF false 8).valid = true ∧
      decode (.adapter .a0) [0xB8, 0, 0, 0, 0, 1, 2, 3, 4, 5, 6, 7, 8] =
        .ok (.adpData .a0 ⟨true, 3, 8, 0, [1, 2, 3, 4, 5, 6, 7, 8]⟩, []) ∧
      frameOf (.adpData .a0 ⟨true, 3, 8, 0, [1, 2, 3, 4, 5, 6, 7, 8]⟩) = some (.ok (.data 0 0 true [1, 2, 3, 4, 5, 6, 7, 8])) :=
  ⟨by decide, by decide, rfl, rfl⟩

theorem witness_RemoteFramesCrossInNeitherDirection :
    (∃ t, exec (.adpRemote .a1 ⟨false, 0, 4, 0x123, zeros 8⟩) (State.resetWith two) = .next t) ∧
      ∃ t, exec (.cmdBuild ⟨1, 0, 0, 0, 0, []⟩) (State.resetWith two) = .next t ∧
        t.outq = .holding (.adapter .a0) 0x00 [0, 0, 0, 1, 0, 0, 0, 0, 0, 0, 0, 0] := ⟨⟨_, rfl⟩, _, rfl, rfl⟩

theorem witness_RoutedAsWrittenNothingReachesA0 :
    (State.resetWith one).CanServe ∧ (State.resetWith one).cfg.routeMap = ⟨.a1, .a1, .a1, .a1⟩ ∧
      (State.resetWith one).cfg.numBuses = .one ∧
      ∃ t, exec (.cmdBuild ⟨1, 0, 0, 0, 0, []⟩) (State.resetWith one) = .next t := ⟨⟨rfl, rfl⟩, rfl, rfl, _, rfl⟩

/-- The statement on the transmit step: each condition of the port, and a list that ends. -/
theorem witness_TransmitStepMovesOneByteOrHalts (x : TxCondition) :
    (sending x).status = .run ∧ (sending x).agenda = .block .client :: [.block (.adapter .a0), .block .client] ∧
      (sending x).outq = .holding .client 0xF1 [0x0C, 0x02] ∧ ((sending x).port .client).tx = x := ⟨rfl, rfl, rfl, rfl⟩

theorem witness_PendingOutputBlocksAllInput :
    (sending .ready).outq ≠ .empty ∧ ∃ t, step (sending .ready) = .next t := ⟨by decide, _, rfl⟩

theorem witness_ServiceIsWrittenWhole :
    (sending .ready).status = .run ∧ (sending .ready).outq = .holding .client 0xF1 [0x0C, 0x02] ∧
      ((sending .ready).port .client).tx = .ready ∧
      (sending .ready).agenda = [Port.client, .adapter .a0, .client].map .block ++ [] := ⟨rfl, rfl, rfl, rfl⟩

theorem witness_EveryReadyPortMayBeServed :
    (offering two (.adapter .a1) [.byte 1, .err]).CanServe ∧ (offering two (.adapter .a1) [.byte 1, .err]).cfg.numBuses = .two ∧
      ((offering two (.adapter .a1) [.byte 1, .err]).port (.adapter .a1)).rx = [.byte 1, .err] ∧
      (offering two (.adapter .a1) [.byte 1, .err]).agenda = [.block (.adapter .a1)] := ⟨⟨rfl, rfl⟩, rfl, rfl, rfl⟩

theorem witness_BlockServesSomeReadyPort :
    ({ offering one .client [.err] with agenda := [] } : State).CanServe ∧
      (({ offering one .client [.err] with agenda := [] } : State).port .client).rx ≠ [] := ⟨⟨rfl, rfl⟩, by decide⟩

theorem witness_AbsentConnectionIsNeverUsed :
    (offering one (.adapter .a1) [.byte 1]).Inv ∧ (offering one (.adapter .a1) [.byte 1]).cfg.numBuses = .one ∧
      ∃ t, step (offering one (.adapter .a1) [.byte 1]) = .next t :=
  ⟨⟨by decide, by decide, by decide, by decide, by decide⟩, rfl, _, rfl⟩

theorem witness_BlockWaitsWithStateUnchanged :
    ({ offering two .client [] with rx0 := ⟨5, Vector.replicate 13 1⟩ } : State).CanServe ∧
      (offering two .client []).portC.rx = [] ∧ (offering two .client []).portA0.rx = [] ∧
      (offering two .client []).portA1.rx = [] ∧ (offering two .client []).agenda = [.block .client] :=
  ⟨⟨rfl, rfl⟩, rfl, rfl, rfl, rfl⟩

theorem witness_StoppedBlockTakesNoStep (st : Status) :
    ({ offering two .client [.byte 0xE7] with status := st } : State).blockChoice = some (some .client) ∧
      ({ State.resetWith two with status := st } : State).blockChoice = some none := ⟨rfl, rfl⟩

/-- A halted block, and a time source that still moves. -/
def halted : State := { State.resetWith two with status := .halted, cause := .writeError .client, agenda := [.time 5] }

theorem witness_StopIsNeverLeft :
    halted.status ≠ .run ∧ Reaches halted { halted with timer := 5, agenda := [] } :=
  ⟨by decide, .tail _ _ _ (.refl _) rfl⟩

theorem witness_EnvironmentActsOnlyThroughPortsAndTimer :
    ({ State.resetWith two with agenda := [.offer (.adapter .a1) .err] } : State).agenda = .offer (.adapter .a1) .err :: [] ∧
      ({ State.resetWith two with agenda := [.accept (.adapter .a1) .error] } : State).agenda = .accept (.adapter .a1) .error :: [] ∧
      (State.resetWith two).cfg.numBuses = .two ∧ (State.resetWith one).cfg.numBuses = .one ∧
      ({ State.resetWith two with timer := 5, agenda := [.time 5] } : State).agenda = .time 5 :: [] ∧
      ({ State.resetWith two with timer := 5, agenda := [.time 5] } : State).timer.toNat ≤ (5 : Word64).toNat :=
  ⟨rfl, rfl, rfl, rfl, rfl, by decide⟩

theorem witness_PortsKeepTheirOwnPartialInput :
    ({ inFrame 12 with cps := .hdr 3 } : State).Serves (.adapter .a0) (.byte 0x00) ∧
      ∃ t, step { inFrame 12 with cps := .hdr 3 } = .next t :=
  ⟨State.serves_of_turn ⟨rfl, rfl⟩ rfl rfl rfl, _, rfl⟩

theorem witness_ModeChangesOnlyByTheHandshake :
    ∃ t, step (offering two .client [.byte 0xE7]) = .next t ∧ t.mode ≠ (offering two .client [.byte 0xE7]).mode :=
  ⟨_, rfl, by decide⟩

theorem witness_TimerNeverDecreases :
    step halted = .next { halted with timer := 5, agenda := [] } ∧ (sending .ready).blockChoice ≠ none := ⟨rfl, by decide⟩

theorem witness_ConfigurationIsNeverWritten : Reaches halted { halted with timer := 5, agenda := [] } :=
  .tail _ _ _ (.refl _) rfl

theorem witness_StepRecordsAtMostOneEvent : ∃ t, step (offering two .client [.err]) = .next t ∧ t.evlog = [.clientReadError .idle] :=
  ⟨_, rfl, rfl⟩

theorem witness_StepKeepsTheInvariant :
    (inPayload 1).Inv ∧ ∃ t, step (inPayload 1) = .next t := ⟨inv_inPayload, _, rfl⟩

theorem witness_NoRunFaultsUnderIgnoreAndDrop :
    halted.cfg.reservedPolicy = .ignore ∧ halted.cfg.unroutablePolicy = .drop ∧ halted.Good ∧ Reaches halted halted :=
  ⟨rfl, rfl, (by decide : halted.status ≠ .faulted), .refl _⟩

/-- Two states that differ in `CBUF` past what is written, in an `ABUF` byte, and in `CAUSE`. -/
theorem witness_UnwrittenBytesAreNeverRead :
    (inPayload 1).AgreeOnLive
      { inPayload 1 with
        cbuf := #v[0x01, 0, 0, 0, 0, 0x02, 0xAA, 9, 9, 9, 9, 9, 9, 9], rx0 := ⟨0, Vector.replicate 13 7⟩, cause := .unroutable 3 } where
  rest := rfl
  acnt c := by cases c <;> rfl
  cbuf := by decide
  abuf c := by cases c <;> decide
  cause h := absurd rfl h

/-- One bus, with some bytes of a response delivered and the others in `OUTQ`. -/
def answering (sent : List Byte) (rest : List Byte) : State :=
  { offering one .client [] with
    draws := 1, agenda := [], outq := OutQ.ofList .client rest, portC := ⟨[], .ready, sent⟩ }

/-- A fair run: a command offered to a one-bus block, the response sent byte by byte, then waiting for ever. -/
def servedRun : Nat → State
  | 0 => { offering one .client [.byte 0x09] with cps := .cmdid, agenda := [] }
  | 1 => answering [] [0xF1, 0x09, 0xDE, 0xAD]
  | 2 => answering [0xF1] [0x09, 0xDE, 0xAD]
  | 3 => answering [0xF1, 0x09] [0xDE, 0xAD]
  | 4 => answering [0xF1, 0x09, 0xDE] [0xAD]
  | _ + 5 => answering [0xF1, 0x09, 0xDE, 0xAD] []

theorem servedRun_isRun : IsRun (fun _ => .block .client) servedRun
  | 0 => rfl
  | 1 => rfl
  | 2 => rfl
  | 3 => rfl
  | 4 => rfl
  | _ + 5 => rfl

theorem servedRun_ready_only_at_first (p : Port) (n : Nat) : (servedRun (n + 1)).readyPort p = false := by
  rcases n with _ | _ | _ | _ | n <;> rcases p with _ | _ | _ <;> rfl

theorem servedRun_accepts (k : Nat) (p : Port) (x : Byte) (xs : List Byte) (h : (servedRun k).outq = .holding p x xs) :
    ((servedRun k).port p).tx = .ready := by
  rcases k with _ | _ | _ | _ | _ | k <;> cases h <;> rfl

theorem witness_OfferedEventIsEventuallyServed :
    IsRun (fun _ => .block .client) servedRun ∧ BlockKeepsMoving (fun _ => .block .client) ∧
      EventuallyAccepts (fun _ => .block .client) servedRun ∧ WeaklyFair (fun _ => .block .client) servedRun ∧
      ((servedRun 0).port .client).rx.head? = some (.byte 0x09) :=
  ⟨servedRun_isRun, fun k => ⟨k, .client, Nat.le_refl k, rfl⟩,
    fun k p x xs h => ⟨k, .client, Nat.le_refl k, rfl, servedRun_accepts k p x xs h⟩,
    fun p n h => absurd ((servedRun_ready_only_at_first p n).symm.trans (h (n + 1) (Nat.le_succ n))) (by decide),
    rfl⟩

end Sys2Proof.Tests
end

section
/-! The turns of the environment agents, one rule for each kind of turn. -/

namespace Sys2Proof.Machine

@[simp] theorem State.port_withAgenda (s : State) (ts : List Turn) (p : Port) :
    ({ s with agenda := ts } : State).port p = s.port p := by
  rcases p with _ | _ | _ <;> rfl

/-! ## The moves of the agents -/

theorem offerMove_live {s : State} {p : Port} (e : RxEvent) (h : s.live p = true) :
    offerMove p e s = s.setPort p { s.port p with rx := (s.port p).rx ++ [e] } :=
  State.peerMove_live _ h

theorem offerMove_absent {s : State} {p : Port} (e : RxEvent) (h : s.live p = false) : offerMove p e s = s :=
  State.peerMove_absent _ h

theorem acceptMove_live {s : State} {p : Port} (c : TxCondition) (h : s.live p = true) :
    acceptMove p c s = s.setPort p { s.port p with tx := c } :=
  State.peerMove_live _ h

theorem acceptMove_absent {s : State} {p : Port} (c : TxCondition) (h : s.live p = false) : acceptMove p c s = s :=
  State.peerMove_absent _ h

theorem timeMove_of_le {s : State} {v : Word64} (h : s.timer.toNat ≤ v.toNat) : timeMove v s = { s with timer := v } := by
  have hle : s.timer ≤ v := BitVec.le_def.mpr h
  simp [timeMove, hle]

/-! ## A step at an agent's turn is that agent's move -/

theorem step_of_offer {s : State} {p : Port} {e : RxEvent} {ts : List Turn} (ha : s.agenda = .offer p e :: ts) :
    step s = .next (offerMove p e { s with agenda := ts }) := by
  simp only [step_eq, fetch, ha, Fetched.outcome]

theorem step_of_accept {s : State} {p : Port} {c : TxCondition} {ts : List Turn} (ha : s.agenda = .accept p c :: ts) :
    step s = .next (acceptMove p c { s with agenda := ts }) := by
  simp only [step_eq, fetch, ha, Fetched.outcome]

theorem step_of_time {s : State} {v : Word64} {ts : List Turn} (ha : s.agenda = .time v :: ts) :
    step s = .next (timeMove v { s with agenda := ts }) := by
  simp only [step_eq, fetch, ha, Fetched.outcome]

/-- Settles O47: a step at an agent's turn is that agent's move; a peer's move writes its own port where the port is live
and nothing where it is absent (R53), and a draw not below `TIMER` becomes `TIMER` (R27). -/
theorem environmentActsOnlyThroughPortsAndTimer : Obligations.EnvironmentActsOnlyThroughPortsAndTimer := by
  unfold Obligations.EnvironmentActsOnlyThroughPortsAndTimer
  intro s ts
  have live {p : Port} (hp : p = .adapter .a1 → s.cfg.numBuses = .two) : ({ s with agenda := ts } : State).live p = true :=
    (State.live_iff _ p).mpr hp
  have absent (h1 : s.cfg.numBuses = .one) : ({ s with agenda := ts } : State).live (.adapter .a1) = false :=
    (State.live_eq_false_iff _ _).mpr ⟨rfl, h1⟩
  refine ⟨fun p e ha hp => ?_, fun p c ha hp => ?_, fun e ha h1 => ?_, fun c ha h1 => ?_, fun v ha hle => ?_⟩
  · rw [step_of_offer ha, offerMove_live e (live hp), State.port_withAgenda]
  · rw [step_of_accept ha, acceptMove_live c (live hp), State.port_withAgenda]
  · rw [step_of_offer ha, offerMove_absent e (absent h1)]
  · rw [step_of_accept ha, acceptMove_absent c (absent h1)]
  · rw [step_of_time ha, timeMove_of_le (s := { s with agenda := ts }) hle]

end Sys2Proof.Machine
end

section
/-! What one step leaves alone: a step that serves no event, and a step that serves one, by the port it serves. The frames
here are what the rules about registers, ports and `TIMER` are read from. -/

namespace Sys2Proof.Machine

/-! ## The state with an event consumed -/

@[simp] theorem State.consumed_mode (s : State) (p : Port) : (s.consumed p).mode = s.mode := by simp [State.consumed]
@[simp] theorem State.consumed_cps (s : State) (p : Port) : (s.consumed p).cps = s.cps := by simp [State.consumed]
@[simp] theorem State.consumed_cbuf (s : State) (p : Port) : (s.consumed p).cbuf = s.cbuf := by simp [State.consumed]
@[simp] theorem State.consumed_outq (s : State) (p : Port) : (s.consumed p).outq = s.outq := by simp [State.consumed]
@[simp] theorem State.consumed_timer (s : State) (p : Port) : (s.consumed p).timer = s.timer := by simp [State.consumed]
@[simp] theorem State.consumed_status (s : State) (p : Port) : (s.consumed p).status = s.status := by simp [State.consumed]
@[simp] theorem State.consumed_cause (s : State) (p : Port) : (s.consumed p).cause = s.cause := by simp [State.consumed]
@[simp] theorem State.consumed_evlog (s : State) (p : Port) : (s.consumed p).evlog = s.evlog := by simp [State.consumed]
@[simp] theorem State.consumed_cfg (s : State) (p : Port) : (s.consumed p).cfg = s.cfg := by simp [State.consumed]
@[simp] theorem State.consumed_cidLatch (s : State) (p : Port) : (s.consumed p).cidLatch = s.cidLatch := by
  simp [State.consumed]

@[simp] theorem State.adapterRx_consumed (s : State) (p : Port) (c : Conn) :
    (s.consumed p).adapterRx c = s.adapterRx c := by
  rw [State.consumed_eq, State.adapterRx_consume]
  rfl

theorem State.port_consumed_ne (s : State) {p q : Port} (h : q ≠ p) : (s.consumed p).port q = s.port q := by
  rw [State.consumed_eq, State.port_consume_ne _ _ _ h, State.port_withAgenda]

/-! ## Which instruction a byte completes -/

theorem decodeIdle_admits (m : Mode) (b : Byte) : Stream.admits (.client m) (decodeIdle m b) = true := by
  unfold decodeIdle
  split
  · next h => simp [Stream.admits, h.2]
  · next h => simpa [Stream.admits, Stream.isClient, ← imp_iff_not_or] using h

theorem decodeIdle_eq_hs {m : Mode} {b : Byte} (h : decodeIdle m b = .hs) : b = 0xE7#8 := by
  unfold decodeIdle at h
  split at h
  · next hb => exact hb.1
  · cases h

theorem buildOps_buildInstr (cid : Byte) (ops : BuildOperands) : buildOps (buildInstr cid ops) = some ops := by
  unfold buildInstr
  split
  · rfl
  · split <;> rfl

theorem State.isSome_buildOps_builtInstr (s : State) (n : Nat) : (buildOps (s.builtInstr n)).isSome := by
  rw [State.builtInstr, buildOps_buildInstr]
  rfl

theorem admits_of_buildOps {i : Instr} (m : Mode) (h : (buildOps i).isSome) : Stream.admits (.client m) i = true := by
  cases i <;> simp_all [buildOps, Stream.admits, Stream.isClient]

theorem adapterInstr_admits (c : Conn) (b0 b1 b2 b3 b4 : Byte) (ps : List Byte) :
    Stream.admits (.adapter c) (adapterInstr c b0 b1 b2 b3 b4 ps) = true := by
  unfold adapterInstr
  split <;> simp [Stream.admits]

/-- What a client byte does, by the parser state it meets (R120 to R126): it is collected, or it completes an instruction. -/
inductive ClientByteKind (b : Byte) (u : State) : Fetched → Prop where
  | lead (cps : u.cps = .idle) (byte : b = 0xF1#8) : ClientByteKind b u (.moved { u with cps := .cmdid })
  | single (cps : u.cps = .idle) (byte : b ≠ 0xF1#8) : ClientByteKind b u (.run (decodeIdle u.mode b) u)
  | command (cps : u.cps = .cmdid) (i : Instr) (row : decodeCommand b = some i) : ClientByteKind b u (.run i u)
  | identifier (cps : u.cps = .cmdid) (row : decodeCommand b = none) :
      ClientByteKind b u (.moved { u with cps := .hdr 0, cidLatch := b })
  | header (k : Fin 6) (cps : u.cps = .hdr k) (lt : k.val < 5) :
      ClientByteKind b u (.moved { u.writeCbuf ⟨k.val, by omega⟩ b with cps := .hdr ⟨k.val + 1, by omega⟩ })
  | headerEnd (cps : u.cps = .hdr 5) (length : payloadLen b ≠ 0) :
      ClientByteKind b u (.moved { u.writeCbuf 5 b with cps := .pay 0 (payloadLen b) })
  | headerOnly (cps : u.cps = .hdr 5) (length : payloadLen b = 0) :
      ClientByteKind b u (.run ((u.writeCbuf 5 b).builtInstr 0) (u.writeCbuf 5 b))
  | payload (k : Fin 8) (n : Fin 9) (cps : u.cps = .pay k n) (lt : k.val + 1 < n.val) :
      ClientByteKind b u (.moved { u.writeCbuf ⟨6 + k.val, by omega⟩ b with cps := .pay ⟨k.val + 1, by omega⟩ n })
  | payloadEnd (k : Fin 8) (n : Fin 9) (cps : u.cps = .pay k n) (ge : n.val ≤ k.val + 1) :
      ClientByteKind b u (.run ((u.writeCbuf ⟨6 + k.val, by omega⟩ b).builtInstr n.val)
        (u.writeCbuf ⟨6 + k.val, by omega⟩ b))

theorem clientByte_kind (b : Byte) (u : State) : ClientByteKind b u (clientByte b u) := by
  unfold clientByte
  split
  · next hc =>
    unfold idleByte
    split
    · next hb => exact .lead hc hb
    · next hb => exact .single hc hb
  · next hc =>
    unfold dispatchByte
    split
    · next i hi => exact .command hc i hi
    · next hn => exact .identifier hc hn
  · next k hc =>
    unfold headerByte
    dsimp only
    split
    · next hk => exact .header k hc hk
    · next hk =>
      obtain rfl : k = 5 := by omega
      split
      · next hl => exact .headerOnly hc hl
      · next hl => exact .headerEnd hc hl
  · next k n hc =>
    unfold payloadByte
    dsimp only
    split
    · next hk => exact .payload k n hc hk
    · next hk => exact .payloadEnd k n hc (by omega)

/-- A client byte completes an instruction of the client's stream. -/
theorem clientByte_run_admits {b : Byte} {u v : State} {i : Instr} (h : clientByte b u = .run i v) :
    Stream.admits (.client u.mode) i = true := by
  have hk := clientByte_kind b u
  rw [h] at hk
  cases hk with
  | single => exact decodeIdle_admits _ _
  | command _ _ row => exact (encode_of_decodeCommand b i row).2.2 _
  | headerOnly => exact admits_of_buildOps _ (State.isSome_buildOps_builtInstr _ _)
  | payloadEnd => exact admits_of_buildOps _ (State.isSome_buildOps_builtInstr _ _)

/-- The handshake is completed only in IDLE, by its byte (R121). -/
theorem clientByte_run_hs {b : Byte} {u v : State} (h : clientByte b u = .run .hs v) : u.cps = .idle ∧ b = 0xE7#8 := by
  have hk := clientByte_kind b u
  rw [h] at hk
  generalize hi : Instr.hs = i at hk
  cases hk with
  | single cps => exact ⟨cps, decodeIdle_eq_hs hi.symm⟩
  | command _ _ row =>
    subst hi
    exact absurd (encode_of_decodeCommand b _ row).1 (by simp [encode])
  | headerOnly =>
    have hops := (u.writeCbuf 5 b).isSome_buildOps_builtInstr 0
    simp [← hi, buildOps] at hops
  | payloadEnd k n =>
    have hops := (u.writeCbuf ⟨6 + k.val, by omega⟩ b).isSome_buildOps_builtInstr n.val
    simp [← hi, buildOps] at hops

/-- An adapter byte completes an instruction of its connection's stream. -/
theorem adapterByte_run_admits {c : Conn} {b : Byte} {u v : State} {i : Instr} (h : adapterByte c b u = .run i v) :
    Stream.admits (.adapter c) i = true := by
  unfold adapterByte at h
  dsimp only at h
  split at h
  · cases h
  · cases h
    exact adapterInstr_admits _ _ _ _ _ _ _

/-! ## The frames of the meanings, by stream -/

/-- No meaning of the client's stream touches an adapter receive path. -/
theorem exec_client_adapterRx {i : Instr} {m : Mode} {s t : State} (hi : Stream.admits (.client m) i = true)
    (h : exec i s = .next t) (c : Conn) : t.adapterRx c = s.adapterRx c := by
  by_cases hb : (buildOps i).isSome
  · rw [buildOps_frame hb h]
    rfl
  · cases i with
    | cmdBuild | cmdUnknown0F13 | cmdUnknown17FF => simp [buildOps] at hb
    | adpData | adpRemote => simp [Stream.admits] at hi
    | hs | stray | cmdTimesync | cmdCanparams | cmdDevinfo | cmdKeepalive | cmdNumbuses | cmdExtbuses => cases h; rfl
    | rsvd02 | rsvd03 | rsvd04 | rsvd05 | rsvd08 | rsvd0A | rsvd0B | rsvd0E | rsvd14 | rsvd15 | rsvd16 =>
      cases h
      rw [reserved_frame]
      rfl

/-- A meaning of an adapter's stream restarts its receive path and touches only `OUTQ` and `EVLOG` besides (R190, R194). -/
theorem exec_adapter_frame {i : Instr} {c : Conn} {s t : State} (hi : Stream.admits (.adapter c) i = true)
    (h : exec i s = .next t) :
    t = { s.setAdapterRx c ⟨0, (s.adapterRx c).abuf⟩ with outq := t.outq, evlog := t.evlog } := by
  cases i with
  | adpData d ops =>
    obtain rfl : c = d := by simpa [Stream.admits] using hi
    cases h
    exact deliver_frame _ _ _
  | adpRemote d ops =>
    obtain rfl : c = d := by simpa [Stream.admits] using hi
    cases h
    exact deliver_frame _ _ _
  | _ => simp [Stream.admits, Stream.isClient] at hi

/-! ## The frames of serving an event -/

/-- Serving an event touches no port, no configuration register, not `TIMER` and no turn. -/
theorem serve_frame {p : Port} {e : RxEvent} {u t : State} (h : (serve p e u).outcome = .next t) :
    t = { u with
      mode := t.mode, cps := t.cps, cbuf := t.cbuf, rx0 := t.rx0, rx1 := t.rx1, outq := t.outq, status := t.status
      cause := t.cause, evlog := t.evlog, cidLatch := t.cidLatch } := by
  cases serve_cases h with
  | clientError eq => rw [eq]; rfl
  | adapterError c eq => rw [eq]; cases c <;> rfl
  | clientCollected b byte => rw [clientByte_moved_frame byte]
  | adapterCollected c b byte => rw [adapterByte_moved_frame byte]; cases c <;> rfl
  | clientRan b i v byte ran =>
    have hf := exec_frame ran
    rw [clientByte_run_frame byte] at hf
    rw [hf]
  | adapterRan c b i v byte ran =>
    have hf := exec_frame ran
    rw [adapterByte_run_frame byte] at hf
    rw [hf]
    cases c <;> rfl

/-- Serving the client touches no adapter receive path. -/
theorem serve_client_adapterRx {e : RxEvent} {u t : State} (h : (serve .client e u).outcome = .next t) (c : Conn) :
    t.adapterRx c = u.adapterRx c := by
  cases serve_cases h with
  | clientError eq => rw [eq]; rfl
  | clientCollected b byte => rw [clientByte_moved_frame byte]; rfl
  | clientRan b i v byte ran =>
    rw [exec_client_adapterRx (clientByte_run_admits byte) ran, clientByte_run_frame byte]
    rfl

/-- Serving connection `c` touches only its receive path, `OUTQ` and `EVLOG`. -/
theorem serve_adapter_frame {c : Conn} {e : RxEvent} {u t : State} (h : (serve (.adapter c) e u).outcome = .next t) :
    t = { u.setAdapterRx c (t.adapterRx c) with outq := t.outq, evlog := t.evlog } := by
  cases serve_cases h with
  | adapterError c eq => rw [eq]; cases c <;> rfl
  | adapterCollected c b byte => rw [adapterByte_moved_frame byte]; cases c <;> rfl
  | adapterRan c b i v byte ran =>
    have hf := exec_adapter_frame (adapterByte_run_admits byte) ran
    rw [adapterByte_run_frame byte] at hf
    rw [hf]
    cases c <;> rfl

theorem serve_port {p : Port} {e : RxEvent} {u t : State} (h : (serve p e u).outcome = .next t) (q : Port) :
    t.port q = u.port q := by
  rw [serve_frame h]
  rcases q with _ | _ | _ <;> rfl

/-! ## The frame of a step that serves nothing -/

/-- Draining `OUTQ` touches the ports, `OUTQ` and, on a write error, what a fatal event writes. -/
theorem txStep_frame (p : Port) (x : Byte) (xs : List Byte) (s : State) :
    txStep p x xs s = { s with
      outq := (txStep p x xs s).outq, status := (txStep p x xs s).status, cause := (txStep p x xs s).cause
      evlog := (txStep p x xs s).evlog, portC := (txStep p x xs s).portC, portA0 := (txStep p x xs s).portA0
      portA1 := (txStep p x xs s).portA1 } := by
  unfold txStep
  split
  · rcases p with _ | _ | _ <;> rfl
  · rfl
  · rfl

/-- A step that serves no event leaves the receive registers, `MODE`, the configuration and the count of draws. -/
theorem step_unserved_frame {s t : State} (h : step s = .next t) (hn : ∀ p e, ¬ s.Serves p e) :
    t = { s with
      outq := t.outq, timer := t.timer, status := t.status, cause := t.cause, evlog := t.evlog, portC := t.portC
      portA0 := t.portA0, portA1 := t.portA1, agenda := t.agenda } := by
  cases step_cases h with
  | offered p e ts _ eq => rw [eq, offerMove, State.peerMove_frame]
  | accepted p c ts _ eq => rw [eq, acceptMove, State.peerMove_frame]
  | timed v ts _ eq => rw [eq]; rfl
  | sent c p x xs _ _ _ eq => rw [eq, txStep_frame]
  | waited c _ _ _ eq => rw [eq]
  | served p e hs => exact absurd hs (hn p e)

/-- The move of a peer replaces the contents of its own port or of none. -/
theorem State.port_peerMove (s : State) (p q : Port) (c : PortContents) :
    (s.peerMove p c).port q = s.port q ∨ (q = p ∧ (s.peerMove p c).port q = c) := by
  unfold State.peerMove
  split
  · by_cases hq : q = p
    · exact .inr ⟨hq, by rw [hq, State.port_setPort_same]⟩
    · exact .inl (State.port_setPort_ne _ _ _ _ hq)
  · exact .inl rfl

theorem offerMove_rx (p q : Port) (e : RxEvent) (s : State) :
    ∃ more, ((offerMove p e s).port q).rx = (s.port q).rx ++ more := by
  unfold offerMove
  obtain hq | ⟨rfl, hq⟩ := s.port_peerMove p q { s.port p with rx := (s.port p).rx ++ [e] }
  · exact ⟨[], by simp [hq]⟩
  · exact ⟨[e], by rw [hq]⟩

theorem acceptMove_rx (p q : Port) (c : TxCondition) (s : State) : ((acceptMove p c s).port q).rx = (s.port q).rx := by
  unfold acceptMove
  obtain hq | ⟨rfl, hq⟩ := s.port_peerMove p q { s.port p with tx := c } <;> rw [hq]

theorem transfer_rx (p q : Port) (x : Byte) (s : State) : ((transfer p x s).port q).rx = (s.port q).rx := by
  unfold transfer
  by_cases hq : q = p
  · rw [hq, State.port_setPort_same]
  · rw [State.port_setPort_ne _ _ _ _ hq]

theorem txStep_rx (p q : Port) (x : Byte) (xs : List Byte) (s : State) :
    ((txStep p x xs s).port q).rx = (s.port q).rx := by
  unfold txStep
  split
  · exact transfer_rx p q x s
  · rfl
  · rfl

/-- A step that serves no event takes nothing from a receive port. -/
theorem step_unserved_rx {s t : State} (h : step s = .next t) (hn : ∀ p e, ¬ s.Serves p e) (q : Port) :
    ∃ more, (t.port q).rx = (s.port q).rx ++ more := by
  cases step_cases h with
  | offered p e ts _ eq =>
    obtain ⟨more, hm⟩ := offerMove_rx p q e { s with agenda := ts }
    exact ⟨more, by rw [eq, hm, State.port_withAgenda]⟩
  | accepted p c ts _ eq => exact ⟨[], by rw [eq, acceptMove_rx, State.port_withAgenda, List.append_nil]⟩
  | timed v ts _ eq =>
    subst eq
    exact ⟨[], by rcases q with _ | _ | _ <;> simp [timeMove, State.port]⟩
  | sent c p x xs _ _ _ eq => exact ⟨[], by rw [eq, txStep_rx, State.port_withAgenda, List.append_nil]⟩
  | waited c _ _ _ eq => exact ⟨[], by rw [eq, State.port_withAgenda, List.append_nil]⟩
  | served p e hs => exact absurd hs (hn p e)

/-! ## The registers that few steps write -/

/-- Settles O39: with `OUTQ` not empty no step serves an event, and a step that serves none leaves the receive registers and
takes nothing from a port. -/
theorem pendingOutputBlocksAllInput : Obligations.PendingOutputBlocksAllInput := by
  unfold Obligations.PendingOutputBlocksAllInput
  intro s t hq h
  have hn (p : Port) (e : RxEvent) : ¬ s.Serves p e := fun hs => hq hs.1.2
  refine ⟨?_, ?_, ?_, ?_, ?_, step_unserved_rx h hn⟩ <;> rw [step_unserved_frame h hn]

/-- Settles O48, from the frames of serving the client and of serving a connection. -/
theorem portsKeepTheirOwnPartialInput : Obligations.PortsKeepTheirOwnPartialInput := by
  unfold Obligations.PortsKeepTheirOwnPartialInput
  intro s t p e hs h
  rw [step_of_serves hs] at h
  have hport (q : Port) (hq : q ≠ p) : t.port q = s.port q := by rw [serve_port h, State.port_consumed_ne s hq]
  cases p with
  | client =>
    refine ⟨fun hp => absurd rfl hp, fun c _ => ?_, hport⟩
    rw [serve_client_adapterRx h, State.adapterRx_consumed]
  | adapter d =>
    have hf := serve_adapter_frame h
    refine ⟨fun _ => ⟨?_, ?_, ?_⟩, fun c hc => ?_, hport⟩
    · rw [hf]; simp
    · rw [hf]; simp
    · rw [hf]; simp
    · have hcd : c ≠ d := fun hcd => hc (by rw [hcd])
      have he : t.adapterRx c = ((s.consumed (.adapter d)).setAdapterRx d (t.adapterRx d)).adapterRx c := by
        conv_lhs => rw [hf]
        rfl
      rw [he, State.adapterRx_setAdapterRx_ne _ _ _ _ hcd, State.adapterRx_consumed]

/-- Settles O49: only serving an event writes `MODE`, and of what a served byte completes only the handshake does. -/
theorem modeChangesOnlyByTheHandshake : Obligations.ModeChangesOnlyByTheHandshake := by
  unfold Obligations.ModeChangesOnlyByTheHandshake
  intro s t h hm
  by_cases hn : ∀ p e, ¬ s.Serves p e
  · exact absurd (by rw [step_unserved_frame h hn]) hm
  · push Not at hn
    obtain ⟨p, e, hs⟩ := hn
    rw [step_of_serves hs] at h
    cases p with
    | adapter c => exact absurd (by rw [serve_adapter_frame h]; simp) hm
    | client =>
      cases serve_cases h with
      | clientError eq => exact absurd (by rw [eq]; simp [clientReadError]) hm
      | clientCollected b byte => exact absurd (by rw [clientByte_moved_frame byte]; simp) hm
      | clientRan b i v byte ran =>
        have hv : v.mode = s.mode := by rw [clientByte_run_frame byte]; simp
        obtain hsame | ⟨rfl, hinit, hbin⟩ := exec_mode ran
        · exact absurd (hsame.trans hv) hm
        · obtain ⟨hidle, rfl⟩ := clientByte_run_hs byte
          exact ⟨hv ▸ hinit, hbin, by simpa using hidle, hs⟩

theorem timeMove_timer_ge (v : Word64) (s : State) : s.timer.toNat ≤ (timeMove v s).timer.toNat := by
  unfold timeMove
  dsimp only
  split
  · next h => exact h
  · exact Nat.le_refl _

/-- Only a draw of the time source writes `TIMER` (R27). -/
theorem step_timer {s t : State} (h : step s = .next t) :
    t.timer = s.timer ∨ ∃ v ts, s.agenda = .time v :: ts ∧ t = timeMove v { s with agenda := ts } := by
  cases step_cases h with
  | offered p e ts _ eq => left; rw [eq, offerMove, State.peerMove_frame]
  | accepted p c ts _ eq => left; rw [eq, acceptMove, State.peerMove_frame]
  | timed v ts ha eq => exact .inr ⟨v, ts, ha, eq⟩
  | sent c p x xs _ _ _ eq => left; rw [eq, txStep_frame]
  | waited c _ _ _ eq => left; rw [eq]
  | served p e _ eq => left; rw [serve_frame eq]; simp

/-- Settles O50: only a draw of the time source writes `TIMER`, and a lower draw is no move. -/
theorem timerNeverDecreases : Obligations.TimerNeverDecreases := by
  unfold Obligations.TimerNeverDecreases
  intro s t h
  obtain heq | ⟨v, ts, ha, rfl⟩ := step_timer h
  · exact ⟨heq ▸ Nat.le_refl _, fun _ => heq⟩
  · exact ⟨timeMove_timer_ge v { s with agenda := ts }, fun hb => absurd (by simp [State.blockChoice, ha]) hb⟩

theorem step_cfg {s t : State} (h : step s = .next t) : t.cfg = s.cfg := by
  by_cases hn : ∀ p e, ¬ s.Serves p e
  · rw [step_unserved_frame h hn]
  · push Not at hn
    obtain ⟨p, e, hs⟩ := hn
    rw [step_of_serves hs] at h
    rw [serve_frame h]
    simp

/-- Settles O51, by induction on the run: no step writes a configuration register. -/
theorem configurationIsNeverWritten : Obligations.ConfigurationIsNeverWritten := by
  unfold Obligations.ConfigurationIsNeverWritten
  intro s t h
  induction h with
  | refl => rfl
  | tail t u _ hstep ih => exact (step_cfg hstep).trans ih

end Sys2Proof.Machine
end

section
/-! The client's bytes in progress: what a collected byte adds to them, and what the decoder reads from them at the byte that
completes a transaction. -/

namespace Sys2Proof.Machine

/-! ## The clauses of the invariant on the client's parser -/

/-- The clauses of the invariant that speak of the client's parser. -/
def State.ParserLegal (s : State) : Prop := s.cpsLegal = true ∧ s.latchLegal = true

theorem State.Inv.parserLegal {s : State} (h : s.Inv) : s.ParserLegal := ⟨h.cps_legal, h.latch_legal⟩

theorem State.ParserLegal.of_idle {s : State} (h : s.cps = .idle) : s.ParserLegal := by
  simp [State.ParserLegal, State.cpsLegal, State.latchLegal, h]

/-- The clauses read `CPS`, `CBUF[5]` and the latch only. -/
theorem State.ParserLegal.congr {s t : State} (h : s.ParserLegal) (cps : t.cps = s.cps) (cbuf : t.cbuf[5] = s.cbuf[5])
    (latch : t.cidLatch = s.cidLatch) : t.ParserLegal := by
  simpa only [State.ParserLegal, State.cpsLegal, State.latchLegal, cps, cbuf, latch] using h

theorem State.ParserLegal.latch_of_hdr {s : State} {k : Fin 6} (h : s.ParserLegal) (hc : s.cps = .hdr k) :
    decodeCommand s.cidLatch = none := by
  simpa [State.latchLegal, hc] using h.2

theorem State.ParserLegal.latch_of_pay {s : State} {k : Fin 8} {n : Fin 9} (h : s.ParserLegal) (hc : s.cps = .pay k n) :
    decodeCommand s.cidLatch = none := by
  simpa [State.latchLegal, hc] using h.2

theorem State.ParserLegal.length_of_pay {s : State} {k : Fin 8} {n : Fin 9} (h : s.ParserLegal) (hc : s.cps = .pay k n) :
    k.val < n.val ∧ n = payloadLen s.cbuf[5] := by
  simpa [State.cpsLegal, hc] using h.1

/-- A payload byte is written past the header (R126). -/
theorem State.writeCbuf_payload_header (s : State) (k : Fin 8) (b : Byte) :
    (s.writeCbuf ⟨6 + k.val, by omega⟩ b).cbuf[5] = s.cbuf[5] := by
  simp only [State.writeCbuf]
  exact Vector.getElem_set_ne (by omega) (by omega) (by omega)

theorem clientByte_moved_parserLegal {b : Byte} {u t : State} (hu : u.ParserLegal) (h : clientByte b u = .moved t) :
    t.ParserLegal := by
  have hk := clientByte_kind b u
  rw [h] at hk
  cases hk with
  | lead => exact ⟨rfl, rfl⟩
  | identifier _ row => exact ⟨rfl, by simp [State.latchLegal, row]⟩
  | header k cps lt => exact ⟨rfl, by simp [State.latchLegal, hu.latch_of_hdr cps]⟩
  | headerEnd cps length =>
    exact ⟨by simpa [State.cpsLegal, State.writeCbuf, Fin.pos_iff_ne_zero] using length,
      by simp [State.latchLegal, hu.latch_of_hdr cps]⟩
  | payload k n cps lt =>
    have hn : n = payloadLen (u.writeCbuf ⟨6 + k.val, by omega⟩ b).cbuf[5] := by
      rw [State.writeCbuf_payload_header]
      exact (hu.length_of_pay cps).2
    exact ⟨by simpa [State.cpsLegal, lt] using hn, by simp [State.latchLegal, hu.latch_of_pay cps]⟩

theorem clientByte_run_parserLegal {b : Byte} {u v : State} {i : Instr} (hu : u.ParserLegal)
    (h : clientByte b u = .run i v) : v.ParserLegal := by
  have hk := clientByte_kind b u
  rw [h] at hk
  cases hk with
  | single => exact hu
  | command => exact hu
  | headerOnly cps =>
    exact ⟨by simp [State.cpsLegal, cps], by simp [State.latchLegal, cps, hu.latch_of_hdr cps]⟩
  | payloadEnd k n => exact hu.congr rfl (u.writeCbuf_payload_header k b) rfl

/-! ## The bytes in progress -/

/-- A collected byte is the last of the bytes in progress (R123 to R126). -/
theorem clientByte_moved_clientBytes {b : Byte} {u t : State} (h : clientByte b u = .moved t) :
    t.clientBytes = u.clientBytes ++ [b] := by
  have hk := clientByte_kind b u
  rw [h] at hk
  cases hk with
  | lead cps byte => simp [State.clientBytes, cps, byte]
  | identifier cps row => simp [State.clientBytes, cps]
  | header k cps lt => simp [State.clientBytes, cps, State.writeCbuf, take_set]
  | headerEnd cps length =>
    have := take_set u.cbuf 5 (by omega) b
    simpa [State.clientBytes, cps, State.writeCbuf] using this
  | payload k n cps lt =>
    have := take_set u.cbuf (6 + k.val) (by omega) b
    simpa [State.clientBytes, cps, State.writeCbuf, Nat.add_assoc] using this

/-- The decoder reads a whole command with operands as the instruction built from `CBUF` (R73, R76, R127). -/
theorem decode_builtInstr {v : State} (m : Mode) (hl : decodeCommand v.cidLatch = none) :
    decode (.client m) ([0xF1, v.cidLatch] ++ v.cbuf.toList.take (6 + (payloadLen v.cbuf[5]).val)) =
      .ok (v.builtInstr (payloadLen v.cbuf[5]).val, []) := by
  have hlen : ((v.cbuf.toList.drop 6).take (payloadLen v.cbuf[5]).val).length = (payloadLen v.cbuf[5]).val := by
    simp
    omega
  rw [take_six]
  simp only [decode, decodeClient, List.cons_append, List.nil_append, hl]
  rw [decodeOperands_eq _ _ _ _ _ _ _ _ hlen.ge, List.take_of_length_le hlen.le, List.drop_of_length_le hlen.le]
  rfl

/-- The instruction a client byte completes is the one the decoder reads from the bytes in progress and that byte. -/
theorem clientByte_run_decode {b : Byte} {u v : State} {i : Instr} (hu : u.ParserLegal) (h : clientByte b u = .run i v) :
    decode (.client u.mode) (u.clientBytes ++ [b]) = .ok (i, []) := by
  have hk := clientByte_kind b u
  rw [h] at hk
  cases hk with
  | single cps byte => simp [State.clientBytes, cps, decode, decodeClient, byte]
  | command cps _ row => simp [State.clientBytes, cps, decode, decodeClient, row]
  | headerOnly cps length =>
    have hb : (u.writeCbuf 5 b).cbuf[5] = b := Vector.getElem_set_self _
    have hd := decode_builtInstr (v := u.writeCbuf 5 b) u.mode (hu.latch_of_hdr cps)
    have ht : (u.writeCbuf 5 b).cbuf.toList.take 6 = u.cbuf.toList.take 5 ++ [b] := take_set u.cbuf 5 (by omega) b
    rw [hb, length] at hd
    simpa [State.clientBytes, cps, ht] using hd
  | payloadEnd k n cps ge =>
    obtain ⟨hkn, hn⟩ := hu.length_of_pay cps
    have hd := decode_builtInstr (v := u.writeCbuf ⟨6 + k.val, by omega⟩ b) u.mode (hu.latch_of_pay cps)
    have ht : (u.writeCbuf ⟨6 + k.val, by omega⟩ b).cbuf.toList.take (6 + n.val) =
        u.cbuf.toList.take (6 + k.val) ++ [b] := by
      rw [show 6 + n.val = 6 + k.val + 1 by omega]
      exact take_set u.cbuf (6 + k.val) (by omega) b
    rw [State.writeCbuf_payload_header, ← hn, ht] at hd
    simpa [State.clientBytes, cps] using hd

/-- Settles O11: a byte that completes an instruction makes a transaction the decoder reads whole, so where the decoder rejects
the bytes the byte was collected. -/
theorem unfinishedClientBytesAreCollected : Obligations.UnfinishedClientBytesAreCollected := by
  unfold Obligations.UnfinishedClientBytesAreCollected
  intro s b e hi hs herr
  have hl : (s.consumed .client).ParserLegal := hi.parserLegal.congr rfl rfl rfl
  rw [step_of_serves hs, serve]
  cases hb : clientByte b (s.consumed .client) with
  | stop r => exact absurd hb (clientByte_not_stop _ _ _)
  | moved t =>
    have hbytes : t.clientBytes = s.clientBytes ++ [b] := clientByte_moved_clientBytes (u := s.consumed .client) hb
    exact ⟨t, rfl, hbytes, clientByte_moved_frame hb⟩
  | run i v =>
    have hok : decode (.client s.mode) (s.clientBytes ++ [b]) = .ok (i, []) :=
      clientByte_run_decode (u := s.consumed .client) hl hb
    rw [herr] at hok
    cases hok

end Sys2Proof.Machine
end

section
/-! The invariant is kept by every step: its clauses on the parser, on `OUTQ` and on the reason of a stop, each through what
serving an event can do. -/

namespace Sys2Proof.Machine

/-! ## Parser -/

theorem serve_parserLegal {p : Port} {e : RxEvent} {u t : State} (hu : u.ParserLegal)
    (h : (serve p e u).outcome = .next t) : t.ParserLegal := by
  cases p with
  | adapter c =>
    refine hu.congr ?_ ?_ ?_ <;> rw [serve_adapter_frame h] <;> simp
  | client =>
    cases serve_cases h with
    | clientError eq => exact .of_idle (by rw [eq]; rfl)
    | clientCollected b byte => exact clientByte_moved_parserLegal hu byte
    | clientRan b i v byte ran =>
      obtain hc | hc := exec_cps ran
      · refine (clientByte_run_parserLegal hu byte).congr hc ?_ ?_ <;> rw [exec_frame ran]
      · exact .of_idle hc

theorem step_parserLegal {s t : State} (hs : s.ParserLegal) (h : step s = .next t) : t.ParserLegal := by
  by_cases hn : ∀ p e, ¬ s.Serves p e
  · refine hs.congr ?_ ?_ ?_ <;> rw [step_unserved_frame h hn]
  · push Not at hn
    obtain ⟨p, e, he⟩ := hn
    rw [step_of_serves he] at h
    exact serve_parserLegal (hs.congr (by simp) (by simp) (by simp)) h

/-! ## Output and stop -/

/-- The clauses of the invariant that speak of `OUTQ` and of the reason of a stop. -/
def State.ServiceLegal (s : State) : Prop := s.outqLegal = true ∧ s.stopLegal = true

theorem State.live_congr {s t : State} (h : t.cfg = s.cfg) (p : Port) : t.live p = s.live p := by
  cases p <;> simp [State.live, h]

/-- The clauses read `OUTQ`, `STATUS`, `CAUSE`, `EVLOG` and the configuration only. -/
theorem State.ServiceLegal.congr {s t : State} (h : s.ServiceLegal) (outq : t.outq = s.outq) (status : t.status = s.status)
    (cause : t.cause = s.cause) (evlog : t.evlog = s.evlog) (cfg : t.cfg = s.cfg) : t.ServiceLegal := by
  simpa only [State.ServiceLegal, State.outqLegal, State.stopLegal, State.noStopRecorded, outq, status, cause, evlog, cfg,
    State.live_congr cfg] using h

theorem State.outqLegal_of_empty {s : State} (h : s.outq = .empty) : s.outqLegal = true := by
  simp [State.outqLegal, h]

theorem State.outqLegal_of_holding {s : State} {p : Port} {x : Byte} {xs : List Byte} (h : s.outq = .holding p x xs) :
    s.outqLegal = true ↔ xs.length ≤ 19 ∧ s.live p = true := by
  simp [State.outqLegal, h]

theorem State.stopLegal_of_run {s : State} (h : s.status = .run) : s.stopLegal = true ↔ s.noStopRecorded = true := by
  simp [State.stopLegal, h]

/-- Recording an event that does not stop the block records no stop. -/
theorem State.noStopRecorded_append {s t : State} {e : Event} (hs : s.noStopRecorded = true)
    (evlog : t.evlog = s.evlog ++ [e]) (cfg : t.cfg = s.cfg) (not5 : e.code ≠ 5)
    (on6 : e.code = 6 → s.cfg.reservedPolicy = .ignore) (on7 : e.code = 7 → s.cfg.unroutablePolicy = .drop) :
    t.noStopRecorded = true := by
  unfold State.noStopRecorded at hs ⊢
  rw [evlog, cfg, List.all_append, hs]
  have h6 (hc : e.code = 6) : s.cfg.reservedPolicy ≠ .fault := by simp [on6 hc]
  have h7 (hc : e.code = 7) : s.cfg.unroutablePolicy ≠ .fault := by simp [on7 hc]
  simpa [not5, ← imp_iff_not_or] using And.intro h6 h7

/-- A service of a running block keeps the clauses (R26, R30, R230, R250). -/
theorem Service.serviceLegal {s t : State} (h : Service s t) (hs : s.ServiceLegal) (run : s.status = .run)
    (cfg : t.cfg = s.cfg) : t.ServiceLegal := by
  obtain ⟨hq, hstop⟩ := hs
  have hlog := (State.stopLegal_of_run run).mp hstop
  cases h with
  | nothing outq evlog status cause => exact State.ServiceLegal.congr ⟨hq, hstop⟩ outq status cause evlog cfg
  | event e outq evlog status cause not5 on6 on7 =>
    refine ⟨?_, (State.stopLegal_of_run (status.trans run)).mpr (State.noStopRecorded_append hlog evlog cfg not5 on6 on7)⟩
    simpa only [State.outqLegal, outq, State.live_congr cfg] using hq
  | fault e outq evlog status cause policy =>
    refine ⟨by simpa only [State.outqLegal, outq, State.live_congr cfg] using hq, ?_⟩
    simpa [State.stopLegal, status, cause, evlog, cfg] using policy
  | emits p x xs outq evlog status cause length live =>
    refine ⟨(State.outqLegal_of_holding outq).mpr ⟨length, (State.live_congr cfg p).trans live⟩, ?_⟩
    simpa only [State.stopLegal, State.noStopRecorded, status, cause, evlog, cfg] using hstop

/-- A service is judged by `OUTQ`, `EVLOG`, `STATUS`, `CAUSE` and the configuration of the state before it. -/
theorem Service.congr {v s t : State} (h : Service v t) (outq : v.outq = s.outq) (evlog : v.evlog = s.evlog)
    (status : v.status = s.status) (cause : v.cause = s.cause) (cfg : v.cfg = s.cfg) : Service s t := by
  cases h with
  | nothing h1 h2 h3 h4 => exact .nothing (h1.trans outq) (h2.trans evlog) (h3.trans status) (h4.trans cause)
  | event e h1 h2 h3 h4 not5 on6 on7 =>
    exact .event e (h1.trans outq) (evlog ▸ h2) (h3.trans status) (h4.trans cause) not5 (cfg ▸ on6) (cfg ▸ on7)
  | fault e h1 h2 h3 h4 policy => exact .fault e (h1.trans outq) (evlog ▸ h2) h3 h4 (cfg ▸ policy)
  | emits p x xs h1 h2 h3 h4 length live =>
    exact .emits p x xs h1 (h2.trans evlog) (h3.trans status) (h4.trans cause) length
      ((State.live_congr cfg p).symm.trans live)

/-- What serving an event does to `OUTQ`, `EVLOG`, `STATUS` and `CAUSE` is one service. -/
theorem serve_service {p : Port} {e : RxEvent} {u t : State} (h : (serve p e u).outcome = .next t) : Service u t := by
  cases serve_cases h with
  | clientError eq =>
    subst eq
    exact .event (.clientReadError u.cps) rfl rfl rfl rfl (by simp [Event.code]) (by simp [Event.code])
      (by simp [Event.code])
  | adapterError c eq =>
    subst eq
    refine .event (.adapterReadError c (u.adapterRx c).acnt) ?_ ?_ ?_ ?_ (by simp [Event.code]) (by simp [Event.code])
      (by simp [Event.code]) <;> cases c <;> rfl
  | clientCollected b byte =>
    refine .nothing ?_ ?_ ?_ ?_ <;> rw [clientByte_moved_frame byte]
  | adapterCollected c b byte =>
    refine .nothing ?_ ?_ ?_ ?_ <;> rw [adapterByte_moved_frame byte] <;> simp
  | clientRan b i v byte ran =>
    refine (exec_service ran).congr ?_ ?_ ?_ ?_ ?_ <;> rw [clientByte_run_frame byte]
  | adapterRan c b i v byte ran =>
    refine (exec_service ran).congr ?_ ?_ ?_ ?_ ?_ <;> rw [adapterByte_run_frame byte] <;> simp

/-- Draining `OUTQ` keeps the clauses: it takes a byte, waits, or halts the block with the write error (R221, R253). -/
theorem txStep_serviceLegal {p : Port} {x : Byte} {xs : List Byte} {s : State} (hs : s.ServiceLegal)
    (outq : s.outq = .holding p x xs) : (txStep p x xs s).ServiceLegal := by
  unfold txStep
  split
  · refine ⟨?_, ?_⟩
    · obtain ⟨hlen, hlive⟩ := (State.outqLegal_of_holding outq).mp hs.1
      cases xs with
      | nil => exact State.outqLegal_of_empty rfl
      | cons y ys =>
        refine (State.outqLegal_of_holding (emit_outq ..)).mpr ⟨?_, ?_⟩
        · exact Nat.le_trans (Nat.le_succ _) hlen
        · rwa [State.live_congr (s := s) (by simp [transfer])]
    · simpa [State.stopLegal, State.noStopRecorded, transfer] using hs.2
  · exact hs
  · refine ⟨?_, by simp [State.stopLegal, raiseEvent, Event.code]⟩
    simpa only [State.outqLegal, raiseEvent_outq, State.live_congr (raiseEvent_cfg s _ _)] using hs.1

theorem step_serviceLegal {s t : State} (hs : s.ServiceLegal) (h : step s = .next t) : t.ServiceLegal := by
  cases step_cases h with
  | offered p e ts _ eq =>
    refine hs.congr ?_ ?_ ?_ ?_ ?_ <;> rw [eq, offerMove, State.peerMove_frame]
  | accepted p c ts _ eq =>
    refine hs.congr ?_ ?_ ?_ ?_ ?_ <;> rw [eq, acceptMove, State.peerMove_frame]
  | timed v ts _ eq => rw [eq]; exact hs.congr rfl rfl rfl rfl rfl
  | sent c p x xs _ _ outq eq =>
    rw [eq]
    exact txStep_serviceLegal (hs.congr rfl rfl rfl rfl rfl) outq
  | waited c _ _ _ eq => rw [eq]; exact hs.congr rfl rfl rfl rfl rfl
  | served p e he eq =>
    have hu : (s.consumed p).ServiceLegal := hs.congr (by simp) (by simp) (by simp) (by simp) (by simp)
    refine (serve_service eq).serviceLegal hu ?_ ?_
    · rw [State.consumed_status]
      exact he.1.1
    · rw [serve_frame eq]

/-! ## The invariant -/

/-- Settles O53: `MODE` moves only to BINARY, and the clauses on the parser and on the service are each kept by every step. -/
theorem stepKeepsTheInvariant : Obligations.StepKeepsTheInvariant := by
  unfold Obligations.StepKeepsTheInvariant
  intro s t hs h
  obtain ⟨hcps, hlatch⟩ := step_parserLegal hs.parserLegal h
  obtain ⟨houtq, hstop⟩ := step_serviceLegal ⟨hs.outq_legal, hs.stop_legal⟩ h
  refine ⟨?_, hcps, hlatch, houtq, hstop⟩
  by_cases hm : t.mode = s.mode
  · rw [hm]
    exact hs.mode_ne_command
  · obtain ⟨-, hbin, -⟩ := modeChangesOnlyByTheHandshake s t h hm
    simp [hbin]

end Sys2Proof.Machine
end

section
/-! Two runs from states that agree on what is live: every update, every meaning and every step keeps the agreement. -/

namespace Sys2Proof.Machine

/-! ## Two runs at once -/

/-- A relation that one step keeps is kept by every number of steps. -/
theorem sameOutcome_run {R : State → State → Prop} (hstep : ∀ s t, R s t → SameOutcome R (step s) (step t)) (k : Nat)
    {s t : State} (h : R s t) : SameOutcome R (s.run k) (t.run k) := by
  induction k generalizing s t with
  | zero => exact h
  | succ k ih =>
    have hst : SameOutcome R (step s) (step t) := hstep s t h
    simp only [State.run, Host.Core.run, Host.Check.core_step]
    revert hst
    cases step s <;> cases step t <;> intro hst
    case next.next u v => exact ih hst
    case fault.fault a b => exact hst
    case refused.refused a b => exact hst
    all_goals exact hst.elim

/-- An update that neither reads nor writes the registers with dead contents, nor `CPS` and `STATUS`, which say what is dead. -/
structure BlindToDead (f : State → State) : Prop where
  commutes : ∀ (u : State) (B : Vector Byte 14) (r0 r1 : AdapterRx) (e : Event),
    f { u with cbuf := B, rx0 := r0, rx1 := r1, cause := e } = { f u with cbuf := B, rx0 := r0, rx1 := r1, cause := e }
  cps : ∀ u : State, (f u).cps = u.cps
  status : ∀ u : State, (f u).status = u.status

namespace State.AgreeOnLive

variable {s t : State}

/-! ## What agreeing states have in common -/

theorem mode (h : s.AgreeOnLive t) : t.mode = s.mode := (congrArg State.mode h.rest :)
theorem cps (h : s.AgreeOnLive t) : t.cps = s.cps := (congrArg State.cps h.rest :)
theorem outq (h : s.AgreeOnLive t) : t.outq = s.outq := (congrArg State.outq h.rest :)
theorem status (h : s.AgreeOnLive t) : t.status = s.status := (congrArg State.status h.rest :)
theorem cfg (h : s.AgreeOnLive t) : t.cfg = s.cfg := (congrArg State.cfg h.rest :)
theorem agenda (h : s.AgreeOnLive t) : t.agenda = s.agenda := (congrArg State.agenda h.rest :)
theorem cidLatch (h : s.AgreeOnLive t) : t.cidLatch = s.cidLatch := (congrArg State.cidLatch h.rest :)
theorem timer (h : s.AgreeOnLive t) : t.timer = s.timer := (congrArg State.timer h.rest :)
theorem port (h : s.AgreeOnLive t) (p : Port) : t.port p = s.port p := (congrArg (State.port · p) h.rest :)
theorem live (h : s.AgreeOnLive t) (p : Port) : t.live p = s.live p := State.live_congr h.cfg p
theorem choosePort (h : s.AgreeOnLive t) (c : Option Port) : t.choosePort c = s.choosePort c :=
  (congrArg (State.choosePort · c) h.rest :)

/-! ## Updates of both states alike -/

/-- An update that writes live registers alike in both states keeps the agreement. -/
theorem update (h : s.AgreeOnLive t) {f : State → State} (hf : BlindToDead f) : (f s).AgreeOnLive (f t) := by
  have ht : f t = { f s with cbuf := t.cbuf, rx0 := t.rx0, rx1 := t.rx1, cause := t.cause } := by
    conv_lhs => rw [h.rest]
    exact hf.commutes s _ _ _ _
  have hs : f s = { f s with cbuf := s.cbuf, rx0 := s.rx0, rx1 := s.rx1, cause := s.cause } :=
    hf.commutes s s.cbuf s.rx0 s.rx1 s.cause
  exact {
    rest := by rw [ht]
    acnt := by rw [ht, hs]; exact h.acnt
    cbuf := by rw [hf.cps, ht, hs]; exact h.cbuf
    abuf := by rw [ht, hs]; exact h.abuf
    cause := by rw [hf.status, ht, hs]; exact h.cause }

theorem withMode (h : s.AgreeOnLive t) (m : Mode) : ({ s with mode := m } : State).AgreeOnLive { t with mode := m } :=
  h.update (f := fun u => { u with mode := m }) ⟨fun _ _ _ _ _ => rfl, fun _ => rfl, fun _ => rfl⟩

theorem withAgenda (h : s.AgreeOnLive t) (ts : List Turn) :
    ({ s with agenda := ts } : State).AgreeOnLive { t with agenda := ts } :=
  h.update (f := fun u => { u with agenda := ts }) ⟨fun _ _ _ _ _ => rfl, fun _ => rfl, fun _ => rfl⟩

theorem withTimer (h : s.AgreeOnLive t) (v : Word64) :
    ({ s with timer := v } : State).AgreeOnLive { t with timer := v } :=
  h.update (f := fun u => { u with timer := v }) ⟨fun _ _ _ _ _ => rfl, fun _ => rfl, fun _ => rfl⟩

theorem withLatch (h : s.AgreeOnLive t) (cid : Byte) :
    ({ s with cidLatch := cid } : State).AgreeOnLive { t with cidLatch := cid } :=
  h.update (f := fun u => { u with cidLatch := cid }) ⟨fun _ _ _ _ _ => rfl, fun _ => rfl, fun _ => rfl⟩

theorem emit (h : s.AgreeOnLive t) (p : Port) (xs : List Byte) : (emit p xs s).AgreeOnLive (emit p xs t) :=
  h.update ⟨fun _ _ _ _ _ => rfl, fun _ => rfl, fun _ => rfl⟩

theorem setPort (h : s.AgreeOnLive t) (p : Port) (c : PortContents) : (s.setPort p c).AgreeOnLive (t.setPort p c) := by
  refine h.update (f := (State.setPort · p c)) ⟨?_, ?_, ?_⟩
  · rcases p with _ | _ | _ <;> exact fun _ _ _ _ _ => rfl
  · exact fun u => u.setPort_cps p c
  · exact fun u => u.setPort_status p c

theorem consume (h : s.AgreeOnLive t) (p : Port) : (s.consume p).AgreeOnLive (t.consume p) := by
  refine h.update (f := (State.consume · p)) ⟨?_, ?_, ?_⟩
  · rcases p with _ | _ | _ <;> exact fun _ _ _ _ _ => rfl
  · exact fun u => u.consume_cps p
  · exact fun u => u.consume_status p

/-- An event that stops the block writes `CAUSE` in both states. -/
theorem stop (h : s.AgreeOnLive t) (st : Status) (e : Event) :
    ({ s with status := st, cause := e } : State).AgreeOnLive { t with status := st, cause := e } where
  rest := congrArg (fun u : State => { u with status := st, cause := e }) h.rest
  acnt := h.acnt
  cbuf := h.cbuf
  abuf := h.abuf
  cause _ := rfl

theorem raiseEvent (h : s.AgreeOnLive t) (k : EventClass) (e : Event) :
    (raiseEvent k e s).AgreeOnLive (raiseEvent k e t) := by
  have hr : (Machine.raiseEvent .recoverable e s).AgreeOnLive (Machine.raiseEvent .recoverable e t) :=
    h.update ⟨fun _ _ _ _ _ => rfl, fun _ => rfl, fun _ => rfl⟩
  cases k with
  | recoverable => exact hr
  | fatal => exact hr.stop .halted e
  | fault => exact hr.stop .faulted e

/-- A parser state with no more bytes written leaves no more bytes live (R22). -/
theorem withCps (h : s.AgreeOnLive t) (c : Cps) (hc : c.written ≤ s.cps.written) :
    ({ s with cps := c } : State).AgreeOnLive { t with cps := c } where
  rest := congrArg (fun u : State => { u with cps := c }) h.rest
  acnt := h.acnt
  cbuf := by simpa [List.take_take, min_eq_left hc] using congrArg (List.take c.written) h.cbuf
  abuf := h.abuf
  cause := h.cause

theorem idle (h : s.AgreeOnLive t) : ({ s with cps := .idle } : State).AgreeOnLive { t with cps := .idle } :=
  h.withCps .idle (Nat.zero_le _)

/-- Receive paths that agree on the bytes counted replace receive paths that do (R23). -/
theorem setAdapterRx (h : s.AgreeOnLive t) (c : Conn) (q r : AdapterRx) (acnt : r.acnt = q.acnt)
    (abuf : r.abuf.toList.take r.acnt.val = q.abuf.toList.take q.acnt.val) :
    (s.setAdapterRx c q).AgreeOnLive (t.setAdapterRx c r) where
  rest := by
    cases c with
    | a0 => exact congrArg (fun u : State => { u with rx0 := r }) h.rest
    | a1 => exact congrArg (fun u : State => { u with rx1 := r }) h.rest
  acnt d := by
    by_cases hd : d = c
    · rw [hd, State.adapterRx_setAdapterRx_same, State.adapterRx_setAdapterRx_same, acnt]
    · rw [State.adapterRx_setAdapterRx_ne _ _ _ _ hd, State.adapterRx_setAdapterRx_ne _ _ _ _ hd, h.acnt]
  cbuf := by simpa using h.cbuf
  abuf d := by
    unfold State.adapterBytes
    by_cases hd : d = c
    · rw [hd, State.adapterRx_setAdapterRx_same, State.adapterRx_setAdapterRx_same, abuf]
    · rw [State.adapterRx_setAdapterRx_ne _ _ _ _ hd, State.adapterRx_setAdapterRx_ne _ _ _ _ hd]
      exact h.abuf d
  cause := by simpa using h.cause

/-- An adapter receive path that restarts has no live bytes (R190, R195). -/
theorem setAcnt_zero (h : s.AgreeOnLive t) (c : Conn) : (s.setAcnt c 0).AgreeOnLive (t.setAcnt c 0) :=
  h.setAdapterRx c _ _ rfl rfl

/-! ## The meanings -/

theorem route (h : s.AgreeOnLive t) (f : Frame) : (route f s).AgreeOnLive (route f t) := by
  unfold Machine.route unroutable
  rw [h.cfg]
  split
  · exact h.emit _ _
  · split <;> exact h.raiseEvent _ _

theorem buildComplete (h : s.AgreeOnLive t) (ops : BuildOperands) :
    (buildComplete ops s).AgreeOnLive (buildComplete ops t) := by
  unfold Machine.buildComplete
  split
  · exact h.route _
  · exact h.raiseEvent _ _

theorem deliver (h : s.AgreeOnLive t) (c : Conn) (r : Except FrameError Frame) :
    (deliver c r s).AgreeOnLive (deliver c r t) := by
  unfold Machine.deliver ts32
  rw [h.timer]
  split
  · exact h.raiseEvent _ _
  · split
    · exact h.raiseEvent _ _
    · exact h.emit _ _

theorem reserved (h : s.AgreeOnLive t) (cid : Byte) : (reserved cid s).AgreeOnLive (reserved cid t) := by
  have hp : t.cfg.reservedPolicy = s.cfg.reservedPolicy := by rw [h.cfg]
  unfold Machine.reserved
  rw [hp]
  split
  · exact h.idle.raiseEvent _ _
  · exact h.raiseEvent _ _

/-- A response whose bytes are the same in both states. -/
theorem respond (h : s.AgreeOnLive t) {xs ys : List Byte} (hxs : ys = xs) :
    (respond xs { s with cps := .idle }).AgreeOnLive (respond ys { t with cps := .idle }) := by
  rw [hxs]
  exact h.idle.emit _ _

theorem exec (h : s.AgreeOnLive t) (i : Instr) : SameOutcome State.AgreeOnLive (exec i s) (exec i t) := by
  cases i with
  | hs =>
    unfold Machine.exec execHs
    rw [h.mode]
    exact h.withMode _
  | stray b => exact h
  | cmdBuild ops | cmdUnknown0F13 _ ops | cmdUnknown17FF _ ops => exact h.idle.buildComplete ops
  | cmdTimesync => exact h.respond (congrArg respTimeSync h.rest :)
  | cmdCanparams => exact h.respond (congrArg respCanBusParams h.rest :)
  | cmdDevinfo => exact h.respond (congrArg respDevInfo h.rest :)
  | cmdNumbuses => exact h.respond (congrArg respNumBuses h.rest :)
  | cmdKeepalive | cmdExtbuses => exact h.respond rfl
  | rsvd02 | rsvd03 | rsvd04 | rsvd05 | rsvd08 | rsvd0A | rsvd0B | rsvd0E | rsvd14 | rsvd15 | rsvd16 =>
    exact h.reserved _
  | adpData c ops | adpRemote c ops => exact (h.setAcnt_zero c).deliver c _

end State.AgreeOnLive

/-! ## The byte steps -/

/-- Two fetched steps of one kind, in agreeing states. -/
def SameFetched : Fetched → Fetched → Prop
  | .stop a, .stop b => a = b
  | .moved s, .moved t => s.AgreeOnLive t
  | .run i s, .run j t => i = j ∧ s.AgreeOnLive t
  | _, _ => False

theorem SameFetched.outcome {f g : Fetched} (h : SameFetched f g) :
    SameOutcome State.AgreeOnLive f.outcome g.outcome := by
  cases f <;> cases g
  case stop.stop a b => exact h
  case moved.moved s t => exact h
  case run.run i s j t =>
    obtain ⟨rfl, hst⟩ := h
    exact hst.exec i
  all_goals exact h.elim

theorem State.builtInstr_congr {s t : State} {n : Nat} (latch : t.cidLatch = s.cidLatch)
    (cbuf : t.cbuf.toList.take (6 + n) = s.cbuf.toList.take (6 + n)) : t.builtInstr n = s.builtInstr n := by
  simp only [take_six, List.cons.injEq] at cbuf
  obtain ⟨h0, h1, h2, h3, h4, h5, hp⟩ := cbuf
  simp only [State.builtInstr, latch, h0, h1, h2, h3, h4, h5, hp]

namespace State.AgreeOnLive

variable {s t : State}

/-- A byte written where the live bytes of `CBUF` end joins them. -/
theorem take_writeCbuf (h : s.AgreeOnLive t) {i : Fin 14} (b : Byte) (hi : i.val = s.cps.written) {m : Nat}
    (hm : m ≤ i.val + 1) :
    (t.writeCbuf i b).cbuf.toList.take m = (s.writeCbuf i b).cbuf.toList.take m := by
  have hset : (t.cbuf.set i.val b).toList.take (i.val + 1) = (s.cbuf.set i.val b).toList.take (i.val + 1) := by
    rw [take_set, take_set, hi, h.cbuf]
  simpa [State.writeCbuf, List.take_take, min_eq_left hm] using congrArg (List.take m) hset

theorem builtInstr_writeCbuf (h : s.AgreeOnLive t) {i : Fin 14} (b : Byte) (hi : i.val = s.cps.written) {n : Nat}
    (hn : 6 + n ≤ i.val + 1) : (s.writeCbuf i b).builtInstr n = (t.writeCbuf i b).builtInstr n :=
  (State.builtInstr_congr (by simpa using h.cidLatch) (h.take_writeCbuf b hi hn)).symm

theorem collect (h : s.AgreeOnLive t) {i : Fin 14} (b : Byte) (hi : i.val = s.cps.written) (c : Cps)
    (hc : c.written ≤ i.val + 1) :
    ({ s.writeCbuf i b with cps := c } : State).AgreeOnLive { t.writeCbuf i b with cps := c } where
  rest := congrArg (fun u : State => { u with cps := c, cbuf := t.cbuf.set i.val b }) h.rest
  acnt := h.acnt
  cbuf := h.take_writeCbuf b hi hc
  abuf := h.abuf
  cause := h.cause

theorem writeCbuf (h : s.AgreeOnLive t) {i : Fin 14} (b : Byte) (hi : i.val = s.cps.written) :
    (s.writeCbuf i b).AgreeOnLive (t.writeCbuf i b) := by
  have ht : t.writeCbuf i b = { t.writeCbuf i b with cps := s.cps } := by rw [← h.cps]; rfl
  rw [ht]
  exact h.collect b hi s.cps (by omega)

theorem headerByte (h : s.AgreeOnLive t) {k : Fin 6} (b : Byte) (hk : s.cps = .hdr k) :
    SameFetched (headerByte k b s) (headerByte k b t) := by
  have hi : k.val = s.cps.written := by rw [hk]; rfl
  unfold Machine.headerByte
  dsimp only
  split
  · exact h.collect b hi _ (Nat.le_refl _)
  · next hlast =>
    split
    · have h6 : 6 + 0 ≤ k.val + 1 := by omega
      exact ⟨h.builtInstr_writeCbuf b hi h6, h.writeCbuf b hi⟩
    · have h6 : 6 ≤ k.val + 1 := by omega
      exact h.collect b hi (.pay 0 (payloadLen b)) h6

theorem payloadByte (h : s.AgreeOnLive t) {k : Fin 8} {n : Fin 9} (b : Byte) (hk : s.cps = .pay k n) :
    SameFetched (payloadByte k n b s) (payloadByte k n b t) := by
  have hi : 6 + k.val = s.cps.written := by rw [hk]; rfl
  unfold Machine.payloadByte
  dsimp only
  split
  · exact h.collect b hi _ (Nat.le_refl _)
  · have hn : 6 + n.val ≤ 6 + k.val + 1 := by omega
    exact ⟨h.builtInstr_writeCbuf b hi hn, h.writeCbuf b hi⟩

theorem clientByte (h : s.AgreeOnLive t) (b : Byte) : SameFetched (clientByte b s) (clientByte b t) := by
  unfold Machine.clientByte
  rw [h.cps]
  split
  · have hd : decodeIdle t.mode b = decodeIdle s.mode b := by rw [h.mode]
    unfold idleByte
    rw [hd]
    split
    · exact h.withCps .cmdid (Nat.zero_le _)
    · exact ⟨rfl, h⟩
  · unfold dispatchByte
    split
    · exact ⟨rfl, h⟩
    · exact (h.withCps (.hdr 0) (Nat.zero_le _)).withLatch b
  · next hk => exact h.headerByte b hk
  · next hk => exact h.payloadByte b hk

/-- The byte that fills `ABUF[c]` makes it live whole, so both states complete the same frame (R190). -/
theorem adapterByte (h : s.AgreeOnLive t) (c : Conn) (b : Byte) :
    SameFetched (adapterByte c b s) (adapterByte c b t) := by
  have hset : ((t.adapterRx c).abuf.set (s.adapterRx c).acnt b).toList.take ((s.adapterRx c).acnt.val + 1) =
      ((s.adapterRx c).abuf.set (s.adapterRx c).acnt b).toList.take ((s.adapterRx c).acnt.val + 1) := by
    have hb := h.abuf c
    unfold State.adapterBytes at hb
    rw [h.acnt] at hb
    rw [take_set, take_set, hb]
  unfold Machine.adapterByte
  dsimp only
  simp only [h.acnt c]
  split
  · exact h.setAdapterRx c _ _ rfl hset
  · next hlast =>
    have hfull : (t.adapterRx c).abuf.set (s.adapterRx c).acnt b = (s.adapterRx c).abuf.set (s.adapterRx c).acnt b := by
      rw [List.take_of_length_le (by simp; omega), List.take_of_length_le (by simp; omega)] at hset
      exact Vector.toList_inj.mp hset
    rw [hfull]
    exact ⟨rfl, h.setAdapterRx c _ _ rfl rfl⟩

/-! ## The step -/

theorem serve (h : s.AgreeOnLive t) (p : Port) (e : RxEvent) : SameFetched (serve p e s) (serve p e t) := by
  cases p with
  | client =>
    cases e with
    | byte b => exact h.clientByte b
    | err =>
      unfold Machine.serve clientReadError
      rw [h.cps]
      exact (h.raiseEvent _ _).idle
  | adapter c =>
    cases e with
    | byte b => exact h.adapterByte c b
    | err =>
      simp only [Machine.serve, adapterReadError, h.acnt]
      exact (h.raiseEvent _ _).setAcnt_zero c

theorem inputStep (h : s.AgreeOnLive t) (c : Option Port) : SameFetched (inputStep c s) (inputStep c t) := by
  unfold Machine.inputStep
  rw [h.choosePort]
  split
  · exact h
  · next p _ =>
    rw [h.port]
    split
    · exact h
    · exact (h.consume p).serve p _

theorem txStep (h : s.AgreeOnLive t) (p : Port) (x : Byte) (xs : List Byte) :
    (txStep p x xs s).AgreeOnLive (txStep p x xs t) := by
  unfold Machine.txStep transfer
  rw [h.port]
  split
  · exact (h.setPort p _).emit p xs
  · exact h
  · exact h.raiseEvent _ _

theorem blockStep (h : s.AgreeOnLive t) (c : Option Port) : SameFetched (blockStep c s) (blockStep c t) := by
  unfold Machine.blockStep
  rw [h.status, h.outq]
  split
  · rfl
  · rfl
  · split
    · exact h.txStep _ _ _
    · exact h.inputStep c

theorem peerMove (h : s.AgreeOnLive t) (p : Port) (c : PortContents) : (s.peerMove p c).AgreeOnLive (t.peerMove p c) := by
  unfold State.peerMove
  rw [h.live]
  split
  · exact h.setPort p c
  · exact h

theorem fetch (h : s.AgreeOnLive t) : SameFetched (fetch s) (fetch t) := by
  unfold Machine.fetch
  rw [h.agenda]
  split
  · exact h.blockStep none
  · exact (h.withAgenda _).blockStep _
  · next p e ts _ =>
    unfold offerMove
    rw [(h.withAgenda ts).port]
    exact (h.withAgenda ts).peerMove p _
  · next p c ts _ =>
    unfold acceptMove
    rw [(h.withAgenda ts).port]
    exact (h.withAgenda ts).peerMove p _
  · next v ts _ =>
    unfold timeMove
    rw [(h.withAgenda ts).timer]
    exact (h.withAgenda ts).withTimer _

theorem step (h : s.AgreeOnLive t) : SameOutcome State.AgreeOnLive (step s) (step t) := by
  rw [step_eq, step_eq]
  exact h.fetch.outcome

end State.AgreeOnLive

/-- Settles O57, by induction on the number of steps: a step reads only what agreeing states have in common, and what it writes
into a dead register it writes alike in both. -/
theorem unwrittenBytesAreNeverRead : Obligations.UnwrittenBytesAreNeverRead := by
  unfold Obligations.UnwrittenBytesAreNeverRead
  intro k s t h
  exact sameOutcome_run (fun _ _ hst => hst.step) k h

end Sys2Proof.Machine
end

section
/-! The length of an encoded transaction, and the draining of `OUTQ`: a service written whole to a port that is ready. -/

namespace Sys2Proof.Laws

/-- Settles O8: the length of each row, a case for each instruction. -/
theorem everyTransactionHasItsLength : Obligations.EveryTransactionHasItsLength := by
  unfold Obligations.EveryTransactionHasItsLength
  intro i
  cases i with
  | hs => exact EncodedLength.hs
  | cmdBuild ops => exact EncodedLength.cmdBuild ops
  | cmdTimesync => exact EncodedLength.cmdTimesync
  | cmdCanparams => exact EncodedLength.cmdCanparams
  | cmdDevinfo => exact EncodedLength.cmdDevinfo
  | cmdKeepalive => exact EncodedLength.cmdKeepalive
  | cmdNumbuses => exact EncodedLength.cmdNumbuses
  | cmdExtbuses => exact EncodedLength.cmdExtbuses
  | rsvd02 => exact EncodedLength.rsvd02
  | rsvd03 => exact EncodedLength.rsvd03
  | rsvd04 => exact EncodedLength.rsvd04
  | rsvd05 => exact EncodedLength.rsvd05
  | rsvd08 => exact EncodedLength.rsvd08
  | rsvd0A => exact EncodedLength.rsvd0A
  | rsvd0B => exact EncodedLength.rsvd0B
  | rsvd0E => exact EncodedLength.rsvd0E
  | rsvd14 => exact EncodedLength.rsvd14
  | rsvd15 => exact EncodedLength.rsvd15
  | rsvd16 => exact EncodedLength.rsvd16
  | cmdUnknown0F13 cid ops => exact EncodedLength.cmdUnknown0F13 cid ops
  | cmdUnknown17FF cid ops => exact EncodedLength.cmdUnknown17FF cid ops
  | stray b => exact EncodedLength.stray b
  | adpData c ops => exact EncodedLength.adpData c ops
  | adpRemote c ops => exact EncodedLength.adpRemote c ops

end Sys2Proof.Laws

namespace Sys2Proof.Machine

/-! ## Runs, one step at a time -/

@[simp] theorem State.run_zero (s : State) : s.run 0 = .next s := rfl

theorem State.run_succ_of_step {s t : State} (k : Nat) (h : step s = .next t) : s.run (k + 1) = t.run k := by
  change Host.Core.run core (k + 1) s = Host.Core.run core k t
  simp only [Host.Core.run, Host.Check.core_step, h]

/-! ## A transfer to a ready port -/

theorem txStep_ready {p : Port} {x : Byte} {xs : List Byte} {s : State} (h : (s.port p).tx = .ready) :
    txStep p x xs s = emit p xs (transfer p x s) := by
  simp only [txStep, h]

@[simp] theorem transfer_status (p : Port) (x : Byte) (s : State) : (transfer p x s).status = s.status := by
  simp [transfer]

@[simp] theorem transfer_agenda (p : Port) (x : Byte) (s : State) : (transfer p x s).agenda = s.agenda := by
  simp [transfer]

@[simp] theorem port_transfer_same (p : Port) (x : Byte) (s : State) :
    (transfer p x s).port p = { s.port p with sent := (s.port p).sent ++ [x] } := by
  simp [transfer]

@[simp] theorem port_emit (p q : Port) (xs : List Byte) (s : State) : (emit p xs s).port q = s.port q := by
  rcases q with _ | _ | _ <;> rfl

/-- A turn of the block with output to send drains it, whichever port the turn names (R221). -/
theorem step_of_holding {s : State} {p q : Port} {x : Byte} {xs : List Byte} {ts : List Turn} (hrun : s.status = .run)
    (hq : s.outq = .holding p x xs) (ha : s.agenda = .block q :: ts) :
    step s = .next (txStep p x xs { s with agenda := ts }) := by
  rw [step_eq, fetch_of_blockChoice (c := some q) (by simp only [State.blockChoice, ha]), ha, List.tail_cons,
    blockStep_sends (u := { s with agenda := ts }) hrun hq, Fetched.outcome]

/-! ## A service written whole -/

/-- `s` with `bs` delivered to `p`, no output left, and the turns `ts` to come. -/
def State.written (s : State) (p : Port) (bs : List Byte) (ts : List Turn) : State :=
  { s with outq := .empty, agenda := ts }.setPort p { s.port p with sent := (s.port p).sent ++ bs }

theorem State.written_nil {s : State} (p : Port) (hq : s.outq = .empty) : s.written p [] s.agenda = s := by
  have hs : ({ s with outq := .empty, agenda := s.agenda } : State) = s := by rw [← hq]
  rw [State.written, hs, List.append_nil, State.setPort_port]

/-- After the first byte is transferred, writing the others is writing the whole list. -/
theorem State.written_transfer (s : State) (p : Port) (x : Byte) (xs : List Byte) (us ts : List Turn) :
    (emit p xs (transfer p x { s with agenda := us })).written p xs ts = s.written p (x :: xs) ts := by
  simp only [State.written, port_emit, port_transfer_same, State.port_withAgenda, List.append_assoc, List.singleton_append]
  rcases p with _ | _ | _ <;> rfl

/-- A ready port takes all bytes of `OUTQ`, in as many turns of the block (R56, R59, R221). -/
theorem run_writes_outq (bs : List Byte) {s : State} {p : Port} {qs : List Port} {ts : List Turn} (hrun : s.status = .run)
    (hq : s.outq = OutQ.ofList p bs) (htx : (s.port p).tx = .ready) (hlen : qs.length = bs.length)
    (ha : s.agenda = qs.map .block ++ ts) : s.run bs.length = .next (s.written p bs ts) := by
  induction bs generalizing s qs with
  | nil =>
    obtain rfl : qs = [] := List.length_eq_zero_iff.mp hlen
    obtain rfl : s.agenda = ts := ha
    rw [State.written_nil p hq, List.length_nil, State.run_zero]
  | cons x xs ih =>
    cases qs with
    | nil => cases hlen
    | cons q qs =>
      have hstep := step_of_holding hrun hq ha
      rw [txStep_ready (by rwa [State.port_withAgenda])] at hstep
      rw [List.length_cons, State.run_succ_of_step _ hstep,
        ih (by simpa using hrun) (by simp) (by simpa using htx) (Nat.succ.inj hlen) (by simp), State.written_transfer]

/-- Settles O40, by induction on the bytes of the service. -/
theorem serviceIsWrittenWhole : Obligations.ServiceIsWrittenWhole := by
  unfold Obligations.ServiceIsWrittenWhole
  intro s p x xs qs ts hrun hq htx hlen ha
  exact run_writes_outq (x :: xs) hrun hq htx hlen ha

end Sys2Proof.Machine
end

section
/-! What the bytes of a whole transaction are (30_encoding R70 to R82), one case for each form that R85 tells apart, and the
statements on the decoder and the encoder, read from it: the decoder reads exactly such bytes, and the encoder writes them. -/

namespace Sys2Proof

/-! ## The row of an identifier with operands -/

/-- The identifiers with operands are those of the three rows that have them (R72). -/
theorem decodeCommand_none_cases {cid : Byte} (h : decodeCommand cid = none) :
    cid = 0x00#8 ∨ isUnknown0F13 cid = true ∨ isUnknown17FF cid = true := by
  simpa only [isUnknown0F13_iff, isUnknown17FF_iff] using (decodeCommand_none_iff cid).mp h

theorem decodeCommand_of_isUnknown0F13 {cid : Byte} (h : isUnknown0F13 cid = true) : decodeCommand cid = none :=
  (decodeCommand_none_iff cid).mpr (.inr (.inl ((isUnknown0F13_iff cid).mp h)))

theorem decodeCommand_of_isUnknown17FF {cid : Byte} (h : isUnknown17FF cid = true) : decodeCommand cid = none :=
  (decodeCommand_none_iff cid).mpr (.inr (.inr ((isUnknown17FF_iff cid).mp h)))

theorem buildInstr_of_isUnknown0F13 {cid : Byte} (h : isUnknown0F13 cid = true) (ops : BuildOperands) :
    buildInstr cid ops = .cmdUnknown0F13 cid ops := if_pos h

theorem buildInstr_of_isUnknown17FF {cid : Byte} (h : isUnknown17FF cid = true) (ops : BuildOperands) :
    buildInstr cid ops = .cmdUnknown17FF cid ops := by
  have hlow : ¬ isUnknown0F13 cid = true := by
    rw [isUnknown17FF_iff] at h
    rw [isUnknown0F13_iff]
    omega
  rw [buildInstr, if_neg hlow, if_pos h]

theorem encode_buildInstr {cid : Byte} (h : decodeCommand cid = none) (ops : BuildOperands) :
    encode (buildInstr cid ops) = [0xF1, cid] ++ encodeOperands ops := by
  rcases decodeCommand_none_cases h with rfl | hlow | hhigh
  · rfl
  · rw [buildInstr_of_isUnknown0F13 hlow, encode]
  · rw [buildInstr_of_isUnknown17FF hhigh, encode]

theorem wf_buildInstr {cid : Byte} (h : decodeCommand cid = none) (ops : BuildOperands) :
    (buildInstr cid ops).wf = ops.wf := by
  rcases decodeCommand_none_cases h with rfl | hlow | hhigh
  · rfl
  · rw [buildInstr_of_isUnknown0F13 hlow, Instr.wf, hlow, Bool.true_and]
  · rw [buildInstr_of_isUnknown17FF hhigh, Instr.wf, hhigh, Bool.true_and]

/-! ## The decoder, one equation for each form of a transaction -/

theorem decode_idleByte (m : Mode) {b : Byte} (h : b ≠ 0xF1#8) (rest : List Byte) :
    decode (.client m) (b :: rest) = .ok (decodeIdle m b, rest) := if_neg h

theorem decode_command (m : Mode) {cid : Byte} {i : Instr} (row : decodeCommand cid = some i) (rest : List Byte) :
    decode (.client m) (0xF1 :: cid :: rest) = .ok (i, rest) := by
  simp [decode, decodeClient, row]

theorem decode_operands (m : Mode) {cid : Byte} (row : decodeCommand cid = none) (bs : List Byte) :
    decode (.client m) (0xF1 :: cid :: bs) = decodeOperands cid bs := by
  simp [decode, decodeClient, row]

theorem decode_frame (c : Conn) (b0 b1 b2 b3 b4 : Byte) {p : List Byte} (hp : p.length = 8) (rest : List Byte) :
    decode (.adapter c) (b0 :: b1 :: b2 :: b3 :: b4 :: (p ++ rest)) = .ok (adapterInstr c b0 b1 b2 b3 b4 p, rest) := by
  have hlen : ¬ (p ++ rest).length < 8 := by simp [hp]
  rw [decode, decodeAdapter, if_neg hlen, List.take_left' hp, List.drop_left' hp]

/-- What the operand decoder reads is the encoding of well-formed operands (R73 to R76). -/
theorem decodeOperands_ok {cid : Byte} {bs rest : List Byte} {i : Instr} (h : decodeOperands cid bs = .ok (i, rest)) :
    ∃ ops : BuildOperands, ops.wf = true ∧ i = buildInstr cid ops ∧ bs = encodeOperands ops ++ rest := by
  unfold decodeOperands at h
  split at h
  · next h0 h1 h2 h3 h4 h5 ps =>
    split at h
    · cases h
    · next hlen =>
      obtain ⟨rfl, rfl⟩ := h
      refine ⟨buildOperands h0 h1 h2 h3 h4 h5 (ps.take (payloadLen h5).val), ?_, rfl, ?_⟩
      · simpa [BuildOperands.wf, buildOperands, payloadLen] using hlen
      · simp only [encodeOperands_build, List.cons_append, List.take_append_drop]
  · cases h

/-! ## The byte classes of `IDLE` and the adapter rows -/

theorem encode_decodeIdle (m : Mode) (b : Byte) : encode (decodeIdle m b) = [b] := by
  unfold decodeIdle
  split
  · next h => rw [h.1]; rfl
  · rfl

theorem wf_decodeIdle (m : Mode) {b : Byte} (h : b ≠ 0xF1#8) : (decodeIdle m b).wf = true := by
  unfold decodeIdle
  split
  · rfl
  · simpa [Instr.wf] using h

/-- A stray byte that the stream admits is of the stray class (R70, row 3). -/
theorem decodeIdle_of_admits_stray {m : Mode} {b : Byte} (h : Stream.admits (.client m) (.stray b) = true) :
    decodeIdle m b = .stray b := by
  refine if_neg fun ⟨hb, hm⟩ => ?_
  simp [Stream.admits, hb, hm] at h

theorem wf_adapterInstr (c : Conn) (b0 b1 b2 b3 b4 : Byte) {p : List Byte} (hp : p.length = 8) :
    (adapterInstr c b0 b1 b2 b3 b4 p).wf = true := by
  unfold adapterInstr
  split <;> simpa [Instr.wf, AdapterOperands.wf, adapterOperands] using hp

/-- The row that the bytes of given fields select, with those fields (R80 to R82). -/
theorem adapterInstr_of_fields (c : Conn) (rtr : Bool) (ops : AdapterOperands) :
    adapterInstr c (adapterByte0 rtr ops) (ops.id.extractLsb' 24 8) (ops.id.extractLsb' 16 8) (ops.id.extractLsb' 8 8)
      (ops.id.extractLsb' 0 8) ops.payload = if rtr then .adpRemote c ops else .adpData c ops := by
  obtain ⟨hext, hrtr, hign, hdlc⟩ := adapterByte0_fields rtr ops
  simp only [adapterInstr, rtrBit, adapterOperands, hext, hrtr, hign, hdlc, be32_be4]

/-! ## Whole transactions -/

/-- `IsTransaction src i w`: the bytes `w` are one whole transaction of the stream `src`, that of the instruction `i`. -/
inductive IsTransaction : Stream → Instr → List Byte → Prop where
  /-- the handshake byte or a stray byte (R70) -/
  | single (m : Mode) {b : Byte} (byte : b ≠ 0xF1#8) : IsTransaction (.client m) (decodeIdle m b) [b]
  /-- a command without operands (R71, R72) -/
  | command (m : Mode) {cid : Byte} {i : Instr} (row : decodeCommand cid = some i) :
      IsTransaction (.client m) i [0xF1, cid]
  /-- a BuildCanFrame or an unknown identifier, with its operands (R72, R73) -/
  | operands (m : Mode) {cid : Byte} {ops : BuildOperands} (row : decodeCommand cid = none) (wf : ops.wf = true) :
      IsTransaction (.client m) (buildInstr cid ops) ([0xF1, cid] ++ encodeOperands ops)
  /-- an adapter frame (R79) -/
  | frame (c : Conn) (b0 b1 b2 b3 b4 : Byte) {p : List Byte} (length : p.length = 8) :
      IsTransaction (.adapter c) (adapterInstr c b0 b1 b2 b3 b4 p) (b0 :: b1 :: b2 :: b3 :: b4 :: p)

namespace IsTransaction

variable {src : Stream} {i : Instr} {w : List Byte}

theorem decode_eq (h : IsTransaction src i w) (rest : List Byte) : decode src (w ++ rest) = .ok (i, rest) := by
  cases h with
  | single m byte => exact decode_idleByte m byte rest
  | command m row => exact decode_command m row rest
  | @operands m cid ops row wf => exact (decode_operands m row _).trans (decodeOperands_encode cid ops rest wf)
  | frame c b0 b1 b2 b3 b4 length => exact decode_frame c b0 b1 b2 b3 b4 length rest

theorem encode_eq (h : IsTransaction src i w) : encode i = w := by
  cases h with
  | @single m b byte => exact encode_decodeIdle m b
  | command m row => exact (encode_of_decodeCommand _ _ row).1
  | operands m row wf => exact encode_buildInstr row _
  | frame c b0 b1 b2 b3 b4 length => exact encode_adapterInstr c b0 b1 b2 b3 b4 _

theorem wf (h : IsTransaction src i w) : i.wf = true := by
  cases h with
  | single m byte => exact wf_decodeIdle m byte
  | command m row => exact (encode_of_decodeCommand _ _ row).2.1
  | operands m row wf => exact (wf_buildInstr row _).trans wf
  | frame c b0 b1 b2 b3 b4 length => exact wf_adapterInstr c b0 b1 b2 b3 b4 length

theorem admits (h : IsTransaction src i w) : src.admits i = true := by
  cases h with
  | @single m b byte => exact Machine.decodeIdle_admits m b
  | command m row => exact (encode_of_decodeCommand _ _ row).2.2 m
  | @operands m cid ops row wf =>
    exact Machine.admits_of_buildOps m (by rw [Machine.buildOps_buildInstr]; rfl)
  | frame c b0 b1 b2 b3 b4 length => exact Machine.adapterInstr_admits c b0 b1 b2 b3 b4 _

/-- Whatever the decoder reads is a whole transaction. -/
theorem of_decode {bs rest : List Byte} (h : decode src bs = .ok (i, rest)) :
    ∃ w, IsTransaction src i w ∧ bs = w ++ rest := by
  cases src with
  | client m =>
    match bs with
    | [] => cases h
    | b :: bs =>
      rcases eq_or_ne b 0xF1 with rfl | hb
      · match bs with
        | [] => cases h
        | cid :: bs =>
          cases row : decodeCommand cid with
          | some j =>
            rw [decode_command m row] at h
            obtain ⟨rfl, rfl⟩ := h
            exact ⟨_, .command m row, rfl⟩
          | none =>
            rw [decode_operands m row] at h
            obtain ⟨ops, hwf, rfl, rfl⟩ := decodeOperands_ok h
            exact ⟨_, .operands m row hwf, rfl⟩
      · rw [decode_idleByte m hb] at h
        obtain ⟨rfl, rfl⟩ := h
        exact ⟨_, .single m hb, rfl⟩
  | adapter c =>
    simp only [decode, decodeAdapter] at h
    split at h
    · next b0 b1 b2 b3 b4 ps =>
      split at h
      · cases h
      · next hlen =>
        obtain ⟨rfl, rfl⟩ := h
        have hp : (ps.take 8).length = 8 := by simpa using hlen
        exact ⟨_, .frame c b0 b1 b2 b3 b4 hp, by simp only [List.cons_append, List.take_append_drop]⟩
    · cases h

/-! ### The encoding of an instruction is its transaction -/

/-- A row without operands, by its identifier. -/
theorem encode_command (cid : Byte) (row : decodeCommand cid = some i) (h : src.isClient = true) :
    IsTransaction src i (encode i) := by
  cases src with
  | client m =>
    rw [(encode_of_decodeCommand cid i row).1]
    exact .command m row
  | adapter c => cases h

/-- A row with operands, by its identifier. -/
theorem encode_operands {cid : Byte} {ops : BuildOperands} (row : decodeCommand cid = none)
    (hi : buildInstr cid ops = i) (hwf : ops.wf = true) (h : src.isClient = true) :
    IsTransaction src i (encode i) := by
  subst hi
  cases src with
  | client m =>
    rw [encode_buildInstr row]
    exact .operands m row hwf
  | adapter c => cases h

/-- A frame, from its fields. -/
theorem encode_fields (c : Conn) (rtr : Bool) {ops : AdapterOperands} (hwf : ops.wf = true) :
    IsTransaction (.adapter c) (if rtr then .adpRemote c ops else .adpData c ops) (encodeAdapter rtr ops) := by
  rw [← adapterInstr_of_fields]
  exact .frame c _ _ _ _ _ (beq_iff_eq.mp hwf)

/-- The encoder writes the transaction of every well-formed instruction that the stream admits. -/
theorem of_wf (hwf : i.wf = true) (h : src.admits i = true) : IsTransaction src i (encode i) := by
  cases i with
  | hs =>
    obtain rfl : src = .client .init := beq_iff_eq.mp h
    exact .single .init (b := 0xE7) (by decide)
  | stray b =>
    cases src with
    | client m =>
      rw [← decodeIdle_of_admits_stray h, encode_decodeIdle]
      exact .single m (bne_iff_ne.mp hwf)
    | adapter c => cases h
  | cmdTimesync => exact encode_command 0x01 rfl h
  | rsvd02 => exact encode_command 0x02 rfl h
  | rsvd03 => exact encode_command 0x03 rfl h
  | rsvd04 => exact encode_command 0x04 rfl h
  | rsvd05 => exact encode_command 0x05 rfl h
  | cmdCanparams => exact encode_command 0x06 rfl h
  | cmdDevinfo => exact encode_command 0x07 rfl h
  | rsvd08 => exact encode_command 0x08 rfl h
  | cmdKeepalive => exact encode_command 0x09 rfl h
  | rsvd0A => exact encode_command 0x0A rfl h
  | rsvd0B => exact encode_command 0x0B rfl h
  | cmdNumbuses => exact encode_command 0x0C rfl h
  | cmdExtbuses => exact encode_command 0x0D rfl h
  | rsvd0E => exact encode_command 0x0E rfl h
  | rsvd14 => exact encode_command 0x14 rfl h
  | rsvd15 => exact encode_command 0x15 rfl h
  | rsvd16 => exact encode_command 0x16 rfl h
  | cmdBuild ops => exact encode_operands (cid := 0x00) rfl rfl hwf h
  | cmdUnknown0F13 cid ops =>
    obtain ⟨hcid, hops⟩ := Bool.and_eq_true_iff.mp hwf
    exact encode_operands (decodeCommand_of_isUnknown0F13 hcid) (buildInstr_of_isUnknown0F13 hcid ops) hops h
  | cmdUnknown17FF cid ops =>
    obtain ⟨hcid, hops⟩ := Bool.and_eq_true_iff.mp hwf
    exact encode_operands (decodeCommand_of_isUnknown17FF hcid) (buildInstr_of_isUnknown17FF hcid ops) hops h
  | adpData c ops =>
    obtain rfl : src = .adapter c := beq_iff_eq.mp h
    exact encode_fields c false hwf
  | adpRemote c ops =>
    obtain rfl : src = .adapter c := beq_iff_eq.mp h
    exact encode_fields c true hwf

end IsTransaction

/-- Settles O5: the encoding of the instruction is its transaction, and the decoder reads a transaction back. -/
theorem decodeOfEncodeIsTheInstruction : Obligations.DecodeOfEncodeIsTheInstruction := by
  unfold Obligations.DecodeOfEncodeIsTheInstruction
  intro src i rest hwf hadm
  exact (IsTransaction.of_wf hwf hadm).decode_eq rest

/-- Settles O6: what the decoder reads is a transaction, and a transaction is the encoding of its instruction. -/
theorem encodeOfDecodeIsTheBytes : Obligations.EncodeOfDecodeIsTheBytes := by
  unfold Obligations.EncodeOfDecodeIsTheBytes
  intro src bs rest i h
  obtain ⟨w, hw, rfl⟩ := IsTransaction.of_decode h
  exact ⟨by rw [hw.encode_eq], hw.wf, hw.admits⟩

end Sys2Proof
end

section
/-! Bytes that end inside a transaction, and the decoder's rows and fields as the tables of 30_encoding write them. -/

namespace Sys2Proof

/-! ## Completing unfinished bytes (R84, R85) -/

theorem length_append_zeros {bs : List Byte} {n : Nat} (h : bs.length ≤ n) :
    (bs ++ zeros (n - bs.length)).length = n := by
  rw [List.length_append, zeros, List.length_replicate, Nat.add_sub_cancel' h]

/-- A header that is not whole is completed with zeros: a length byte of zero asks for no payload (R76). -/
theorem decodeOperands_complete_header (cid : Byte) {bs : List Byte} (h : bs.length < 6) :
    ∃ i, decodeOperands cid (bs ++ (zeros (5 - bs.length) ++ [0x00])) = .ok (i, []) := by
  rw [← List.append_assoc]
  match bs ++ zeros (5 - bs.length), length_append_zeros (Nat.le_of_lt_succ h) with
  | [_, _, _, _, _], _ => exact ⟨_, rfl⟩

/-- A payload that is not whole is completed with zeros. -/
theorem decodeOperands_complete_payload (cid h0 h1 h2 h3 h4 h5 : Byte) {ps : List Byte}
    (h : ps.length < (payloadLen h5).val) :
    ∃ i, decodeOperands cid (h0 :: h1 :: h2 :: h3 :: h4 :: h5 :: (ps ++ zeros ((payloadLen h5).val - ps.length))) =
      .ok (i, []) := by
  have hlen := length_append_zeros h.le
  exact ⟨_, by rw [decodeOperands_eq _ _ _ _ _ _ _ _ hlen.ge, List.drop_of_length_le hlen.le]⟩

/-- Operands that the decoder rejects end in the header or in the payload. -/
theorem decodeOperands_complete {cid : Byte} {bs : List Byte} {e : DecodeError} (h : decodeOperands cid bs = .error e) :
    ∃ more i, decodeOperands cid (bs ++ more) = .ok (i, []) := by
  rcases lt_or_ge bs.length 6 with hshort | hlong
  · exact ⟨_, decodeOperands_complete_header cid hshort⟩
  · match bs, hlong with
    | h0 :: h1 :: h2 :: h3 :: h4 :: h5 :: ps, _ =>
      rcases lt_or_ge ps.length (payloadLen h5).val with hps | hps
      · exact ⟨_, decodeOperands_complete_payload cid h0 h1 h2 h3 h4 h5 hps⟩
      · rw [decodeOperands_eq _ _ _ _ _ _ _ _ hps] at h
        cases h

theorem decodeClient_complete {m : Mode} {bs : List Byte} {e : DecodeError} (h : decode (.client m) bs = .error e) :
    ∃ more i, decode (.client m) (bs ++ more) = .ok (i, []) := by
  match bs with
  | [] => exact ⟨[0x00], _, decode_idleByte m (by decide) []⟩
  | b :: bs =>
    rcases eq_or_ne b 0xF1 with rfl | hb
    · match bs with
      | [] => exact ⟨[0x01], _, decode_command m (i := .cmdTimesync) rfl []⟩
      | cid :: bs =>
        cases row : decodeCommand cid with
        | some i =>
          rw [decode_command m row] at h
          cases h
        | none =>
          rw [decode_operands m row] at h
          obtain ⟨more, i, hok⟩ := decodeOperands_complete h
          exact ⟨more, i, (decode_operands m row _).trans hok⟩
    · rw [decode_idleByte m hb] at h
      cases h

theorem decodeAdapter_length {c : Conn} {bs : List Byte} {e : DecodeError} (h : decode (.adapter c) bs = .error e) :
    bs.length < 13 := by
  by_contra hlong
  match bs, not_lt.mp hlong with
  | b0 :: b1 :: b2 :: b3 :: b4 :: ps, hlen =>
    have hp : (ps.take 8).length = 8 := by simpa using hlen
    rw [← List.take_append_drop 8 ps, decode_frame c b0 b1 b2 b3 b4 hp] at h
    cases h

/-- Every 13 bytes are one adapter frame (R79). -/
theorem decode_of_length_13 (c : Conn) {w : List Byte} (h : w.length = 13) :
    ∃ i, decode (.adapter c) w = .ok (i, []) :=
  ⟨_, Machine.decode_framed c ⟨w.toArray, h⟩⟩

theorem decodeAdapter_complete {c : Conn} {bs : List Byte} {e : DecodeError} (h : decode (.adapter c) bs = .error e) :
    ∃ more i, decode (.adapter c) (bs ++ more) = .ok (i, []) :=
  ⟨_, decode_of_length_13 c (length_append_zeros (decodeAdapter_length h).le)⟩

/-- Settles O7: rejected bytes end at a known place of a transaction, and zeros or one more byte complete it. -/
theorem rejectedBytesAreUnfinished : Obligations.RejectedBytesAreUnfinished := by
  unfold Obligations.RejectedBytesAreUnfinished
  intro src bs e h
  obtain ⟨more, i, hok⟩ : ∃ more i, decode src (bs ++ more) = .ok (i, []) := by
    cases src with
    | client m => exact decodeClient_complete h
    | adapter c => exact decodeAdapter_complete h
  refine ⟨more, i, ?_, hok⟩
  rintro rfl
  rw [List.append_nil, h] at hok
  cases hok

/-! ## The rows of the command identifiers (R72) -/

theorem mem_commandTable_of_decodeCommand {cid : Byte} {i : Instr} (h : decodeCommand cid = some i) :
    (cid, i) ∈ commandTable := by
  obtain ⟨l₁, l₂, hl, -⟩ := List.lookup_eq_some_iff.mp h
  rw [hl]
  exact List.mem_append_right l₁ List.mem_cons_self

/-- The operands as the decoder reads them are the header's bytes and bits in place (R74 to R76). -/
theorem buildOperands_eq (h0 h1 h2 h3 h4 h5 : Byte) (data : List Byte) :
    buildOperands h0 h1 h2 h3 h4 h5 data = ⟨h3 ++ h2 ++ h1 ++ h0, h4.extractLsb' 2 6, h4.extractLsb' 0 2,
      h5.extractLsb' 4 4, h5.extractLsb' 0 4, data⟩ := by
  rw [buildOperands, le32_eq_append, lengthCode]

/-- Settles O3: the identifiers without operands are the 17 entries of the command table, the others are in the three ranges of
the rows with operands. -/
theorem identifierSelectsItsRow : Obligations.IdentifierSelectsItsRow := by
  unfold Obligations.IdentifierSelectsItsRow
  intro m cid h0 h1 h2 h3 h4 h5 ps hn
  dsimp only
  cases row : decodeCommand cid with
  | some i =>
    rw [decode_command m row]
    have hmem := mem_commandTable_of_decodeCommand row
    simp only [commandTable, List.cons_append, List.nil_append, List.mem_cons, List.not_mem_nil, or_false,
      Prod.mk.injEq] at hmem
    rcases hmem with h | h | h | h | h | h | h | h | h | h | h | h | h | h | h | h | h <;>
      (obtain ⟨rfl, rfl⟩ := h; rfl)
  | none =>
    rw [decode_operands m row, decodeOperands_eq _ _ _ _ _ _ _ _ (by rwa [payloadLen_val]), buildOperands_eq,
      payloadLen_val]
    rcases decodeCommand_none_cases row with rfl | hlow | hhigh
    · rfl
    · obtain ⟨hge, hle⟩ := (isUnknown0F13_iff cid).mp hlow
      have hne : ∀ k : Byte, k.toNat < 0x0F → cid ≠ k := fun k hk hc => by subst hc; omega
      simp [buildInstr_of_isUnknown0F13 hlow, hne, hle]
    · have hge := (isUnknown17FF_iff cid).mp hhigh
      have hne : ∀ k : Byte, k.toNat < 0x17 → cid ≠ k := fun k hk hc => by subst hc; omega
      have hnle : ¬ cid.toNat ≤ 0x13 := by omega
      simp [buildInstr_of_isUnknown17FF hhigh, hne, hnle]

/-! ## Single bytes, frames, and words of the spec -/

/-- Settles O2, by the decoder's equation for a byte in IDLE. -/
theorem idleByteIsHandshakeOrStray : Obligations.IdleByteIsHandshakeOrStray := by
  unfold Obligations.IdleByteIsHandshakeOrStray
  intro m b rest h
  rw [decode_idleByte m h, decodeIdle]

/-- Settles O4, by the decoder's equation for a frame and `be32` as concatenation. -/
theorem adapterFieldsAreReadInPlace : Obligations.AdapterFieldsAreReadInPlace := by
  unfold Obligations.AdapterFieldsAreReadInPlace
  intro c b0 b1 b2 b3 b4 p rest hp
  simp only [List.cons_append, List.nil_append]
  rw [decode_frame c b0 b1 b2 b3 b4 hp, adapterInstr, adapterOperands, be32_eq_append, rtrBit]

/-- Settles O1: each of the eight words is evaluated. -/
theorem wordsWrittenFromTheSpecDecode : Obligations.WordsWrittenFromTheSpecDecode := by
  unfold Obligations.WordsWrittenFromTheSpecDecode
  exact ⟨rfl, rfl, rfl, rfl, rfl, rfl, rfl, rfl⟩

end Sys2Proof
end

section
/-! The frame constructors of 40_frame_model.md, with their bounds read as numbers. -/

namespace Sys2Proof.Machine

/-- Settles O34: `newData` and `newRemote` check in the order R103 demands; what is left is that the comparisons of words
with `idMask` and with 8 are those of their values. -/
theorem constructorsMakeExactlyTheValidFrames : Obligations.ConstructorsMakeExactlyTheValidFrames := by
  unfold Obligations.ConstructorsMakeExactlyTheValidFrames
  constructor
  · intro bus id ext data
    simp only [newData, idMask_lt_iff]
  · intro bus id ext dlc
    simp only [newRemote, idMask_lt_iff, dlc_gt_iff]

end Sys2Proof.Machine
end

section
/-! A transaction offered whole, byte by byte: which bytes are unfinished to the decoder, and the receive path of a port that
takes one event at each turn of the block. -/

namespace Sys2Proof

/-! ## The decoder on more bytes -/

theorem decode_append {src : Stream} {bs rest : List Byte} {i : Instr} (h : decode src bs = .ok (i, rest))
    (more : List Byte) : decode src (bs ++ more) = .ok (i, rest ++ more) := by
  obtain ⟨w, hw, rfl⟩ := IsTransaction.of_decode h
  rw [List.append_assoc]
  exact hw.decode_eq _

/-- Bytes that more bytes make one transaction of are rejected by themselves. -/
theorem decode_error_of_append {src : Stream} {bs more : List Byte} {i : Instr} (hne : more ≠ [])
    (h : decode src (bs ++ more) = .ok (i, [])) : ∃ e, decode src bs = .error e := by
  cases hbs : decode src bs with
  | error e => exact ⟨e, rfl⟩
  | ok r =>
    obtain ⟨j, rest⟩ := r
    rw [decode_append hbs] at h
    simp [hne] at h

theorem IsTransaction.decode_self {src : Stream} {i : Instr} {w : List Byte} (h : IsTransaction src i w) :
    decode src w = .ok (i, []) := by
  simpa using h.decode_eq []

theorem IsTransaction.ne_nil {src : Stream} {i : Instr} {w : List Byte} (h : IsTransaction src i w) : w ≠ [] := by
  cases h <;> exact List.cons_ne_nil _ _

theorem IsTransaction.length_of_adapter {c : Conn} {i : Instr} {w : List Byte} (h : IsTransaction (.adapter c) i w) :
    w.length = 13 := by
  cases h with
  | frame _ b0 b1 b2 b3 b4 length => simp [length]

namespace Machine

/-- Between two bytes the client's bytes in progress are no whole transaction (R84). -/
theorem State.ParserLegal.decode_clientBytes {s : State} (h : s.ParserLegal) (m : Mode) :
    ∃ e, decode (.client m) s.clientBytes = .error e := by
  cases hc : s.cps with
  | idle => exact ⟨.empty, by rw [State.clientBytes, hc]; rfl⟩
  | cmdid => exact ⟨.noIdentifier, by rw [State.clientBytes, hc]; rfl⟩
  | hdr k =>
    refine ⟨.shortHeader, ?_⟩
    simp only [State.clientBytes, hc, List.cons_append, List.nil_append]
    rw [decode_operands m (h.latch_of_hdr hc), decodeOperands_short (by simp)]
  | pay k n =>
    obtain ⟨hk, hn⟩ := h.length_of_pay hc
    have hlen : ((s.cbuf.toList.drop 6).take k.val).length < (payloadLen s.cbuf[5]).val := by
      rw [← hn]
      exact Nat.lt_of_le_of_lt (List.length_take_le _ _) hk
    refine ⟨.shortPayload, ?_⟩
    simp only [State.clientBytes, hc, take_six, List.cons_append, List.nil_append]
    rw [decode_operands m (h.latch_of_pay hc), decodeOperands, if_pos hlen]

/-! ## Which client bytes are collected and which complete an instruction -/

/-- A client byte is collected where the decoder rejects the bytes so far. -/
theorem clientByte_of_decode_error {b : Byte} {u : State} {e : DecodeError} (hu : u.ParserLegal)
    (h : decode (.client u.mode) (u.clientBytes ++ [b]) = .error e) : ∃ t, clientByte b u = .moved t := by
  cases hb : clientByte b u with
  | stop r => exact absurd hb (clientByte_not_stop b u r)
  | moved t => exact ⟨t, rfl⟩
  | run i v =>
    rw [clientByte_run_decode hu hb] at h
    cases h

/-- A client byte completes the instruction that the decoder reads from the bytes so far. -/
theorem clientByte_of_decode_ok {b : Byte} {u : State} {i : Instr} (hu : u.ParserLegal)
    (h : decode (.client u.mode) (u.clientBytes ++ [b]) = .ok (i, [])) : ∃ v, clientByte b u = .run i v := by
  cases hb : clientByte b u with
  | stop r => exact absurd hb (clientByte_not_stop b u r)
  | moved t =>
    obtain ⟨e, he⟩ := (clientByte_moved_parserLegal hu hb).decode_clientBytes u.mode
    rw [clientByte_moved_clientBytes hb, h] at he
    cases he
  | run j v =>
    rw [clientByte_run_decode hu hb] at h
    cases h
    exact ⟨v, rfl⟩

/-- At the byte that completes an instruction `CBUF` holds the operand bytes received, its other bytes unchanged (R125,
R126). -/
theorem clientByte_run_cbuf {b : Byte} {u v : State} {i : Instr} (h : clientByte b u = .run i v) :
    v.cbuf.toList.take (u.clientBytes.length - 1) = (u.clientBytes ++ [b]).drop 2 ∧
      v.cbuf.toList.drop (u.clientBytes.length - 1) = u.cbuf.toList.drop (u.clientBytes.length - 1) := by
  have hk := clientByte_kind b u
  rw [h] at hk
  cases hk with
  | single cps => simp [State.clientBytes, cps]
  | command cps => simp [State.clientBytes, cps]
  | headerOnly cps =>
    have htake := take_set u.cbuf 5 (by omega) b
    have hdrop := drop_set u.cbuf 5 (by omega) b
    simpa [State.clientBytes, cps, State.writeCbuf] using And.intro htake hdrop
  | payloadEnd k n cps =>
    have htake := take_set u.cbuf (6 + k.val) (by omega) b
    have hdrop := drop_set u.cbuf (6 + k.val) (by omega) b
    have hlen : u.clientBytes.length - 1 = 6 + k.val + 1 := by simp [State.clientBytes, cps]; omega
    rw [hlen]
    simpa [State.clientBytes, cps, State.writeCbuf] using And.intro htake hdrop

/-- Settles O9: the byte at which the decoder reads a whole transaction completes its instruction, with the operand bytes in
`CBUF`. -/
theorem stepRunsTheDecodedClientTransaction : Obligations.StepRunsTheDecodedClientTransaction := by
  unfold Obligations.StepRunsTheDecodedClientTransaction
  intro s b i hi hs hd
  have hl : (s.consumed .client).ParserLegal := hi.parserLegal.congr rfl rfl rfl
  obtain ⟨v, hv⟩ := clientByte_of_decode_ok (u := s.consumed .client) hl hd
  refine ⟨v.cbuf, ?_, clientByte_run_cbuf (u := s.consumed .client) hv⟩
  rw [step_of_serves hs, serve, hv, Fetched.outcome, ← clientByte_run_frame hv]

/-! ## A port that is served at every turn -/

theorem State.run_one (s : State) : s.run 1 = step s := by
  change Host.Core.run core 1 s = step s
  simp only [Host.Core.run, Host.Check.core_step]
  cases step s <;> rfl

/-- The next turns of the block serve the bytes `w` that the port `p` offers. -/
structure State.OffersWhole (s : State) (p : Port) (w : List Byte) : Prop where
  canServe : s.CanServe
  live : s.live p = true
  rx : ∃ es, (s.port p).rx = w.map .byte ++ es
  turns : ∃ ts, s.agenda = List.replicate w.length (.block p) ++ ts

/-- `s` with `n` turns taken and `n` events of `p` consumed. -/
def State.received (s : State) (p : Port) (n : Nat) : State :=
  { s.setPort p { s.port p with rx := (s.port p).rx.drop n } with agenda := s.agenda.drop n, draws := s.draws + n }

theorem State.received_one (s : State) (p : Port) : s.received p 1 = s.consumed p := by
  simp only [State.received, State.consumed, List.drop_one]

theorem State.received_consumed (s : State) (p : Port) (n : Nat) :
    (s.consumed p).received p n = s.received p (n + 1) := by
  rcases p with _ | _ | _ <;>
    simp [State.received, State.consumed, State.setPort, State.port, Nat.add_assoc, Nat.add_comm 1 n]

theorem State.received_setAdapterRx (s : State) (c : Conn) (r : AdapterRx) (p : Port) (n : Nat) :
    (s.setAdapterRx c r).received p n = (s.received p n).setAdapterRx c r := by
  rcases p with _ | _ | _ <;> cases c <;> rfl

theorem State.received_of_offers {s : State} {p : Port} {w : List Byte} {es : List RxEvent} {ts : List Turn}
    (hrx : (s.port p).rx = w.map .byte ++ es) (hts : s.agenda = List.replicate w.length (.block p) ++ ts) :
    s.received p w.length =
      { s.setPort p { s.port p with rx := es } with agenda := ts, draws := s.draws + w.length } := by
  rw [State.received, hrx, hts, List.drop_left' (by simp), List.drop_left' (by simp)]

/-! ## The adapter's byte step, by the place in the frame (R190) -/

/-- A receive path with one more byte of its frame, not the last. -/
def AdapterRx.collected (r : AdapterRx) (b : Byte) (h : r.acnt.val < 12) : AdapterRx :=
  ⟨⟨r.acnt.val + 1, by omega⟩, r.abuf.set r.acnt b⟩

theorem AdapterRx.acnt_collected (r : AdapterRx) (b : Byte) (h : r.acnt.val < 12) :
    (r.collected b h).acnt.val = r.acnt.val + 1 := rfl

theorem adapterByte_collects {c : Conn} {b : Byte} {u : State} {r : AdapterRx} (hr : u.adapterRx c = r)
    (h : r.acnt.val < 12) : adapterByte c b u = .moved (u.setAdapterRx c (r.collected b h)) := by
  subst hr
  exact dif_pos h

theorem adapterByte_completes {c : Conn} {b : Byte} {u : State} {r : AdapterRx} (hr : u.adapterRx c = r)
    (h : r.acnt = 12) :
    adapterByte c b u = .run (framedInstr c (r.abuf.set 12 b)) (u.setAdapterRx c ⟨12, r.abuf.set 12 b⟩) := by
  subst hr
  simp [adapterByte, h]

theorem AdapterRx.take_collected (r : AdapterRx) (b : Byte) (h : r.acnt.val < 12) :
    (r.collected b h).abuf.toList.take (r.collected b h).acnt.val = r.abuf.toList.take r.acnt.val ++ [b] :=
  take_set r.abuf r.acnt.val (by omega) b

theorem toList_set_last (B : Vector Byte 13) (b : Byte) : (B.set 12 b).toList = B.toList.take 12 ++ [b] := by
  rw [← take_set B 12 (by omega) b, List.take_of_length_le (by simp)]

namespace State.OffersWhole

variable {s t : State} {p : Port} {b : Byte} {w : List Byte}

theorem serves (h : s.OffersWhole p (b :: w)) : s.Serves p (.byte b) := by
  obtain ⟨es, hrx⟩ := h.rx
  obtain ⟨ts, hts⟩ := h.turns
  exact State.serves_of_turn h.canServe hts h.live (by rw [hrx]; rfl)

theorem consumed (h : s.OffersWhole p (b :: w)) : (s.consumed p).OffersWhole p w where
  canServe := by simpa [State.CanServe] using h.canServe
  live := (State.live_congr (by simp) p).trans h.live
  rx := by
    obtain ⟨es, hrx⟩ := h.rx
    refine ⟨es, ?_⟩
    rw [State.consumed_eq, State.port_consume_same, State.port_withAgenda, hrx]
    rfl
  turns := by
    obtain ⟨ts, hts⟩ := h.turns
    exact ⟨ts, by rw [State.consumed, hts]; rfl⟩

theorem setAdapterRx (h : s.OffersWhole p w) (c : Conn) (r : AdapterRx) : (s.setAdapterRx c r).OffersWhole p w where
  canServe := by simpa [State.CanServe] using h.canServe
  live := (State.live_congr (by simp) p).trans h.live
  rx := by simpa using h.rx
  turns := by simpa using h.turns

/-- The client's parser is none of what serving a port reads. -/
theorem withParser (h : s.OffersWhole .client w) (t : State) :
    ({ s with cps := t.cps, cbuf := t.cbuf, cidLatch := t.cidLatch } : State).OffersWhole .client w where
  canServe := h.canServe
  live := h.live
  rx := h.rx
  turns := h.turns

/-! ## The client's transaction -/

/-- The bytes of a client transaction, from any place of it on, run to the meaning of its instruction. -/
theorem run_client {i : Instr} (h : s.OffersWhole .client w) (hl : s.ParserLegal) (hne : w ≠ [])
    (hd : decode (.client s.mode) (s.clientBytes ++ w) = .ok (i, [])) :
    ∃ t, s.run w.length = exec i t ∧
      t = { s.received .client w.length with cps := t.cps, cbuf := t.cbuf, cidLatch := t.cidLatch } := by
  induction w generalizing s with
  | nil => exact absurd rfl hne
  | cons b w ih =>
    have hu : (s.consumed .client).ParserLegal := hl.congr rfl rfl rfl
    have hstep := step_of_serves h.serves
    rcases eq_or_ne w [] with rfl | hw
    · obtain ⟨v, hv⟩ := clientByte_of_decode_ok (u := s.consumed .client) hu hd
      refine ⟨v, ?_, ?_⟩
      · rw [List.length_singleton, State.run_one, hstep, serve, hv, Fetched.outcome]
      · rw [List.length_singleton, State.received_one, clientByte_run_frame hv]
    · rw [List.append_cons] at hd
      obtain ⟨e, he⟩ := decode_error_of_append hw hd
      obtain ⟨t, ht⟩ := clientByte_of_decode_error (u := s.consumed .client) hu he
      have hf := clientByte_moved_frame ht
      have hnext : t.OffersWhole .client w := hf ▸ h.consumed.withParser t
      have hmode : t.mode = s.mode := by rw [hf]; rfl
      have hbytes : t.clientBytes = s.clientBytes ++ [b] := clientByte_moved_clientBytes (u := s.consumed .client) ht
      obtain ⟨v, hrun, hv⟩ := ih hnext (clientByte_moved_parserLegal hu ht) hw (by rwa [hmode, hbytes])
      refine ⟨v, ?_, ?_⟩
      · rw [serve, ht, Fetched.outcome] at hstep
        rw [List.length_cons, State.run_succ_of_step _ hstep, hrun]
      · rw [List.length_cons, ← State.received_consumed, hv, hf]
        rfl

/-! ## The adapter's frame -/

/-- The bytes of a frame, from any place of it on, run to the meaning of the frame they fill `ABUF[c]` with. -/
theorem run_adapter {c : Conn} (h : s.OffersWhole (.adapter c) w) (hlen : (s.adapterRx c).acnt.val + w.length = 13) :
    ∃ B : Vector Byte 13, B.toList = s.adapterBytes c ++ w ∧
      s.run w.length = exec (framedInstr c B) ((s.received (.adapter c) w.length).setAdapterRx c ⟨12, B⟩) := by
  induction w generalizing s with
  | nil => exact absurd hlen (Nat.ne_of_lt (s.adapterRx c).acnt.isLt)
  | cons b w ih =>
    have hstep := step_of_serves h.serves
    rw [List.length_cons] at hlen
    rcases Nat.lt_or_ge (s.adapterRx c).acnt.val 12 with hlt | hge
    · rw [serve, adapterByte_collects (State.adapterRx_consumed ..) hlt, Fetched.outcome] at hstep
      obtain ⟨B, hB, hrun⟩ := ih (h.consumed.setAdapterRx c ((s.adapterRx c).collected b hlt))
        (by rw [State.adapterRx_setAdapterRx_same, AdapterRx.acnt_collected]; omega)
      refine ⟨B, ?_, ?_⟩
      · rw [hB, State.adapterBytes, State.adapterRx_setAdapterRx_same, AdapterRx.take_collected, List.append_assoc]
        rfl
      · rw [List.length_cons, State.run_succ_of_step _ hstep, hrun, State.received_setAdapterRx,
          State.received_consumed, State.setAdapterRx_setAdapterRx]
    · have hlast : (s.adapterRx c).acnt = 12 := by omega
      obtain rfl : w = [] := List.length_eq_zero_iff.mp (by omega)
      refine ⟨(s.adapterRx c).abuf.set 12 b, ?_, ?_⟩
      · rw [State.adapterBytes, hlast]
        exact toList_set_last _ _
      · rw [List.length_singleton, State.run_one, hstep, serve, adapterByte_completes (State.adapterRx_consumed ..) hlast,
          Fetched.outcome, State.received_one]

end State.OffersWhole

/-- Settles O19: byte by byte the receive path of the port collects the encoding, which the decoder reads as the
instruction. -/
theorem transactionRunsToItsMeaning : Obligations.TransactionRunsToItsMeaning := by
  unfold Obligations.TransactionRunsToItsMeaning
  refine ⟨fun s i es ts hs hidle hwf hadm hrx hts => ?_, fun s c i es ts hs hacnt hlive hwf hadm hrx hts => ?_⟩
  · have htx := IsTransaction.of_wf hwf hadm
    have hbytes : s.clientBytes = [] := by rw [State.clientBytes, hidle]
    obtain ⟨t, hrun, ht⟩ := State.OffersWhole.run_client ⟨hs, rfl, ⟨es, hrx⟩, ⟨ts, hts⟩⟩ (.of_idle hidle) htx.ne_nil
      (by rw [hbytes, List.nil_append, htx.decode_self])
    refine ⟨t, hrun, ht.trans ?_⟩
    rw [State.received_of_offers (p := .client) hrx hts]
    rfl
  · have htx := IsTransaction.of_wf hwf hadm
    have hlive' : s.live (.adapter c) = true := (State.live_iff s _).mpr (by simpa using hlive)
    obtain ⟨B, hB, hrun⟩ := State.OffersWhole.run_adapter (c := c) ⟨hs, hlive', ⟨es, hrx⟩, ⟨ts, hts⟩⟩
      (by rw [hacnt, htx.length_of_adapter]; rfl)
    have hbytes : s.adapterBytes c = [] := by rw [State.adapterBytes, hacnt]; rfl
    rw [hbytes, List.nil_append] at hB
    have hframed : framedInstr c B = i := by
      have hd := htx.decode_self
      rw [← hB, decode_framed] at hd
      cases hd
      rfl
    refine ⟨B, hB, ?_⟩
    rw [hrun, hframed, State.received_of_offers hrx hts]

end Machine
end Sys2Proof
end

section
/-! The client's byte step at each parser state (41_analysis_decoder R120 to R126), and its read error (R152, R153). -/

namespace Sys2Proof.Machine

variable {u : State}

/-! ## One equation for each parser state and byte -/

theorem clientByte_lead (h : u.cps = .idle) : clientByte 0xF1#8 u = .moved { u with cps := .cmdid } := by
  rw [clientByte, h]
  exact if_pos rfl

theorem clientByte_operandIdentifier {cid : Byte} (h : u.cps = .cmdid) (row : decodeCommand cid = none) :
    clientByte cid u = .moved { u with cps := .hdr 0, cidLatch := cid } := by
  simp only [clientByte, h, dispatchByte, row]

theorem clientByte_header {k : Fin 6} (b : Byte) (h : u.cps = .hdr k) (hk : k.val < 5) :
    clientByte b u = .moved { u with cbuf := u.cbuf.set k.val b, cps := .hdr ⟨k.val + 1, by omega⟩ } := by
  rw [clientByte, h]
  exact dif_pos hk

theorem clientByte_lastHeader {b : Byte} (h : u.cps = .hdr 5) (hn : payloadLen b ≠ 0) :
    clientByte b u = .moved { u with cbuf := u.cbuf.set 5 b, cps := .pay 0 (payloadLen b) } := by
  rw [clientByte, h]
  exact if_neg hn

theorem clientByte_onlyHeader {b : Byte} (h : u.cps = .hdr 5) (hn : payloadLen b = 0) :
    clientByte b u = .run ((u.writeCbuf 5 b).builtInstr 0) (u.writeCbuf 5 b) := by
  rw [clientByte, h]
  exact if_pos hn

theorem clientByte_payload {k : Fin 8} {n : Fin 9} (b : Byte) (h : u.cps = .pay k n) (hk : k.val + 1 < n.val) :
    clientByte b u = .moved { u with cbuf := u.cbuf.set (6 + k.val) b, cps := .pay ⟨k.val + 1, by omega⟩ n } := by
  rw [clientByte, h]
  exact dif_pos hk

theorem clientByte_lastPayload {k : Fin 8} {n : Fin 9} (b : Byte) (h : u.cps = .pay k n) (hk : n.val ≤ k.val + 1) :
    clientByte b u = .run ((u.writeCbuf ⟨6 + k.val, by omega⟩ b).builtInstr n.val)
      (u.writeCbuf ⟨6 + k.val, by omega⟩ b) := by
  rw [clientByte, h]
  exact dif_neg (Nat.not_lt.mpr hk)

/-- What a completed command with operands does is a BuildCanFrame with the fields of `CBUF` in place (R74 to R76, R127,
R128). -/
theorem exec_builtInstr (u v : State) (n : Nat) : exec (u.builtInstr n) v =
    exec (.cmdBuild ⟨u.cbuf[3] ++ u.cbuf[2] ++ u.cbuf[1] ++ u.cbuf[0], u.cbuf[4].extractLsb' 2 6,
      u.cbuf[4].extractLsb' 0 2, u.cbuf[5].extractLsb' 4 4, u.cbuf[5].extractLsb' 0 4,
      (u.cbuf.toList.drop 6).take n⟩) v := by
  rw [State.builtInstr, exec_buildInstr, buildOperands_eq]

theorem State.getElem_writeCbuf_self (u : State) (i : Fin 14) (b : Byte) : (u.writeCbuf i b).cbuf[i.val] = b :=
  Vector.getElem_set_self _

theorem State.getElem_writeCbuf_ne (u : State) {i : Fin 14} {j : Nat} (b : Byte) (hj : j < 14) (h : i.val ≠ j) :
    (u.writeCbuf i b).cbuf[j] = u.cbuf[j] :=
  Vector.getElem_set_ne i.isLt hj h

/-- The payload is stored past the header. -/
theorem State.getElem_writeCbuf_payload (u : State) (k : Fin 8) {j : Nat} (b : Byte) (hj : j < 6) :
    (u.writeCbuf ⟨6 + k.val, by omega⟩ b).cbuf[j] = u.cbuf[j] :=
  u.getElem_writeCbuf_ne b (by omega) (Nat.ne_of_gt (Nat.lt_add_right k.val hj))

/-- A header byte that ends the command runs a BuildCanFrame of the five bytes stored before it and itself. -/
theorem outcome_onlyHeader {b : Byte} (h : u.cps = .hdr 5) (hn : payloadLen b = 0) : (clientByte b u).outcome =
    exec (.cmdBuild ⟨u.cbuf[3] ++ u.cbuf[2] ++ u.cbuf[1] ++ u.cbuf[0], u.cbuf[4].extractLsb' 2 6,
      u.cbuf[4].extractLsb' 0 2, b.extractLsb' 4 4, b.extractLsb' 0 4, []⟩) { u with cbuf := u.cbuf.set 5 b } := by
  have h5 : (u.writeCbuf 5 b).cbuf[5] = b := u.getElem_writeCbuf_self 5 b
  rw [clientByte_onlyHeader h hn, Fetched.outcome, exec_builtInstr, List.take_zero, h5]
  simp (disch := decide) only [State.getElem_writeCbuf_ne]
  rfl

/-- The last payload byte runs a BuildCanFrame of the header stored before and the payload with it. -/
theorem outcome_lastPayload {k : Fin 8} {n : Fin 9} (b : Byte) (h : u.cps = .pay k n) (hk : n.val ≤ k.val + 1) :
    (clientByte b u).outcome =
      exec (.cmdBuild ⟨u.cbuf[3] ++ u.cbuf[2] ++ u.cbuf[1] ++ u.cbuf[0], u.cbuf[4].extractLsb' 2 6,
        u.cbuf[4].extractLsb' 0 2, u.cbuf[5].extractLsb' 4 4, u.cbuf[5].extractLsb' 0 4,
        ((u.cbuf.set (6 + k.val) b).toList.drop 6).take n.val⟩) { u with cbuf := u.cbuf.set (6 + k.val) b } := by
  rw [clientByte_lastPayload b h hk, Fetched.outcome, exec_builtInstr]
  simp (disch := decide) only [State.getElem_writeCbuf_payload]
  rfl

/-! ## The statements -/

theorem step_clientByte {s : State} {b : Byte} (h : s.Serves .client (.byte b)) :
    step s = (clientByte b (s.consumed .client)).outcome := step_of_serves h

/-- Settles O12, by the byte's equations in IDLE and in CMDID: 0xF1 is an identifier with operands. -/
theorem leadByteOpensACommand : Obligations.LeadByteOpensACommand := by
  unfold Obligations.LeadByteOpensACommand
  intro s hs
  rw [step_clientByte hs]
  refine ⟨fun hc => ?_, fun hc => ⟨0xF1, ?_⟩⟩
  · rw [clientByte_lead (u := s.consumed .client) hc, Fetched.outcome]
  · rw [clientByte_operandIdentifier (u := s.consumed .client) hc (by decide)]
    rfl

/-- Settles O13: the three ranges are the identifiers that the command table leaves out. -/
theorem operandIdentifierOpensTheHeader : Obligations.OperandIdentifierOpensTheHeader := by
  unfold Obligations.OperandIdentifierOpensTheHeader
  intro s cid hs hc hcid
  rw [step_clientByte hs, clientByte_operandIdentifier (u := s.consumed .client) hc ((decodeCommand_none_iff cid).mpr hcid),
    Fetched.outcome]

/-- Settles O14: before the last header byte, at the last with a payload to come, and at the last without. -/
theorem headerByteIsStored : Obligations.HeaderByteIsStored := by
  unfold Obligations.HeaderByteIsStored
  intro s k b hs hc B n
  have hn : (payloadLen b).val = n := payloadLen_val b
  rw [step_clientByte hs]
  refine ⟨fun hk => ?_, fun hk hpos => ?_, fun hk hzero => ?_⟩
  · rw [clientByte_header (u := s.consumed .client) b hc hk]
    rfl
  · obtain rfl : k = 5 := Fin.ext hk
    have hne : payloadLen b ≠ 0 := fun h0 => by simp [← hn, h0] at hpos
    have hlen : payloadLen b = ⟨n, by omega⟩ := Fin.ext hn
    rw [clientByte_lastHeader (u := s.consumed .client) hc hne, hlen]
    rfl
  · obtain rfl : k = 5 := Fin.ext hk
    have hz : payloadLen b = 0 := Fin.ext (hn.trans hzero)
    exact outcome_onlyHeader (u := s.consumed .client) hc hz

/-- Settles O15: a payload byte before the last, and the last; no payload byte is stored over the header. -/
theorem payloadByteIsStored : Obligations.PayloadByteIsStored := by
  unfold Obligations.PayloadByteIsStored
  intro s k n b hs hc B
  rw [step_clientByte hs]
  refine ⟨fun hk => ?_, fun hk => ?_⟩
  · rw [clientByte_payload (u := s.consumed .client) b hc hk]
    rfl
  · exact outcome_lastPayload (u := s.consumed .client) b hc hk

/-- Settles O17: the read error is recorded with the `CPS` it found, which then becomes IDLE. -/
theorem clientReadErrorDropsTheCommand : Obligations.ClientReadErrorDropsTheCommand := by
  unfold Obligations.ClientReadErrorDropsTheCommand
  intro s hs
  rw [step_of_serves hs, serve, Fetched.outcome, clientReadError, State.consumed_cps]
  rfl

end Sys2Proof.Machine
end

section
/-! The meanings of the analysis decoder (41_analysis_decoder R121 to R151): what each family of rows does, said once for the
family, and the statements on the rows. -/

namespace Sys2Proof.Machine

/-! ## The handshake and a stray byte -/

theorem exec_hs_of_init {s : State} (h : s.mode = .init) : exec .hs s = .next { s with mode := .binary } := by
  rw [exec, execHs, if_pos h]

theorem exec_hs_of_ne_init {s : State} (h : s.mode ≠ .init) : exec .hs s = .next s := by
  rw [exec, execHs, if_neg h]

theorem exec_stray (b : Byte) (s : State) : exec (.stray b) s = .next s := rfl

/-- A byte in IDLE other than 0xF1 does what the handshake does if it is 0xE7, and nothing if it is not. -/
theorem exec_decodeIdle (b : Byte) (s : State) :
    exec (decodeIdle s.mode b) s = if b = 0xE7#8 then exec .hs s else .next s := by
  unfold decodeIdle
  by_cases hb : b = 0xE7#8
  · by_cases hm : s.mode = .init
    · rw [if_pos ⟨hb, hm⟩, if_pos hb]
    · rw [if_neg (fun h => hm h.2), if_pos hb, exec_stray, exec_hs_of_ne_init hm]
  · rw [if_neg (fun h => hb h.1), if_neg hb, exec_stray]

/-- Settles O20, by whether `MODE` is INIT. -/
theorem handshakeSetsBinaryFromInit : Obligations.HandshakeSetsBinaryFromInit := by
  unfold Obligations.HandshakeSetsBinaryFromInit
  exact fun s _ => ⟨exec_hs_of_init, exec_hs_of_ne_init⟩

/-- Settles O21: the meaning of a stray byte answers the state it is given. -/
theorem strayByteChangesNothing : Obligations.StrayByteChangesNothing := by
  unfold Obligations.StrayByteChangesNothing
  exact fun s b _ => exec_stray b s

/-! ## The responses (R129 to R134) -/

/-- The commands that answer with a response, each with its response (R129 to R134, R160 to R165). -/
def responseRows : List (Instr × (State → List Byte)) :=
  [(.cmdTimesync, respTimeSync), (.cmdCanparams, respCanBusParams), (.cmdDevinfo, respDevInfo),
    (.cmdKeepalive, fun _ => respKeepAlive), (.cmdNumbuses, respNumBuses), (.cmdExtbuses, fun _ => respExtBuses)]

/-- A response row ends the command and loads `OUTQ` with its response for the client (R225). -/
theorem exec_of_responseRows {i : Instr} {f : State → List Byte} (h : (i, f) ∈ responseRows) (s : State) :
    exec i s = .next { s with cps := .idle, outq := OutQ.ofList .client (f s) } := by
  simp only [responseRows, List.mem_cons, List.not_mem_nil, or_false, Prod.mk.injEq] at h
  rcases h with h | h | h | h | h | h <;> (obtain ⟨rfl, rfl⟩ := h; rfl)

/-- The low 32 bits of `TIMER` hold its low four bytes (R166). -/
theorem le4_ts32 (s : State) : le4 (ts32 s) = [s.timer.extractLsb' 0 8, s.timer.extractLsb' 8 8,
    s.timer.extractLsb' 16 8, s.timer.extractLsb' 24 8] := by
  simp (disch := decide) only [le4, ts32, BitVec.extractLsb'_setWidth_of_le]

/-- Settles O23: the response row of TimeSync, with the low bytes of `TIMER`. -/
theorem timeSyncAnswersElapsedMicroseconds : Obligations.TimeSyncAnswersElapsedMicroseconds := by
  unfold Obligations.TimeSyncAnswersElapsedMicroseconds
  intro s _
  rw [exec_of_responseRows (f := respTimeSync) (by simp [responseRows]), respTimeSync, le4_ts32]
  rfl

/-- Settles O24, by the number of buses. -/
theorem canBusParamsAnswersTheBaud : Obligations.CanBusParamsAnswersTheBaud := by
  unfold Obligations.CanBusParamsAnswersTheBaud
  intro s _
  rw [exec_of_responseRows (f := respCanBusParams) (by simp [responseRows]), respCanBusParams]
  cases s.cfg.numBuses <;> rfl

/-- Settles O25: the response row of GetDevInfo; reset loads `DEVINFO` from the parameters. -/
theorem devInfoAnswersTheDeviceBytes : Obligations.DevInfoAnswersTheDeviceBytes := by
  unfold Obligations.DevInfoAnswersTheDeviceBytes
  refine ⟨fun s _ => ?_, rfl⟩
  rw [exec_of_responseRows (f := respDevInfo) (by simp [responseRows]), respDevInfo]
  rfl

/-- Settles O26: the response row of KeepAlive. -/
theorem keepAliveAnswersDeAd : Obligations.KeepAliveAnswersDeAd := by
  unfold Obligations.KeepAliveAnswersDeAd
  intro s _
  rw [exec_of_responseRows (f := fun _ => respKeepAlive) (by simp [responseRows]), respKeepAlive]
  rfl

/-- Settles O27, by the number of buses. -/
theorem numBusesAnswersTheBusCount : Obligations.NumBusesAnswersTheBusCount := by
  unfold Obligations.NumBusesAnswersTheBusCount
  intro s _
  rw [exec_of_responseRows (f := respNumBuses) (by simp [responseRows]), respNumBuses]
  cases s.cfg.numBuses <;> rfl

/-- Settles O28: the response row of GetExtBuses. -/
theorem extBusesAnswersZeros : Obligations.ExtBusesAnswersZeros := by
  unfold Obligations.ExtBusesAnswersZeros
  intro s _
  rw [exec_of_responseRows (f := fun _ => respExtBuses) (by simp [responseRows]), respExtBuses, zeros]
  rfl

/-! ## The reserved commands (R140 to R151) -/

/-- The reserved commands, each with its identifier (R141 to R151). -/
def reservedRows : List (Instr × Byte) :=
  [(.rsvd02, 0x02), (.rsvd03, 0x03), (.rsvd04, 0x04), (.rsvd05, 0x05), (.rsvd08, 0x08), (.rsvd0A, 0x0A),
    (.rsvd0B, 0x0B), (.rsvd0E, 0x0E), (.rsvd14, 0x14), (.rsvd15, 0x15), (.rsvd16, 0x16)]

/-- Every reserved row is `Reserved` of its identifier. -/
theorem exec_of_reservedRows {i : Instr} {cid : Byte} (h : (i, cid) ∈ reservedRows) (s : State) :
    exec i s = .next (reserved cid s) := by
  simp only [reservedRows, List.mem_cons, List.not_mem_nil, or_false, Prod.mk.injEq] at h
  rcases h with h | h | h | h | h | h | h | h | h | h | h <;> (obtain ⟨rfl, rfl⟩ := h; rfl)

theorem reserved_of_ignore {s : State} (cid : Byte) (h : s.cfg.reservedPolicy = .ignore) :
    reserved cid s = { s with cps := .idle, evlog := s.evlog ++ [.reservedCommand cid] } := by
  simp only [reserved, h, raiseEvent]

theorem reserved_of_fault {s : State} (cid : Byte) (h : s.cfg.reservedPolicy = .fault) :
    reserved cid s = { s with
      evlog := s.evlog ++ [.reservedCommand cid], status := .faulted, cause := .reservedCommand cid } := by
  simp only [reserved, h, raiseEvent]

/-- Settles O29: each row is `Reserved` of its identifier, which follows the policy. -/
theorem reservedCommandsFollowThePolicy : Obligations.ReservedCommandsFollowThePolicy := by
  unfold Obligations.ReservedCommandsFollowThePolicy
  intro s i cid _ hi
  rw [exec_of_reservedRows hi]
  exact ⟨fun h => by rw [reserved_of_ignore cid h], fun h => by rw [reserved_of_fault cid h]⟩

/-! ## BuildCanFrame (R127, R222, R224) -/

theorem buildComplete_of_too_long {ops : BuildOperands} {s : State}
    (h : (ops.raw.getLsbD 30 || ops.raw.getLsbD 29) = true) :
    buildComplete ops s = { s with evlog := s.evlog ++ [.idTooLongClient ops.raw] } := by
  rw [buildComplete, newData, if_pos ((idOfRaw_too_long_iff ops.raw).mpr h)]
  rfl

theorem newData_of_valid {ops : BuildOperands} (h : ¬ (ops.raw.getLsbD 30 || ops.raw.getLsbD 29) = true)
    (hlen : ops.data.length ≤ 8) : newData ops.bus (idOfRaw ops.raw) (extOfRaw ops.raw) ops.data =
      .ok (.data ops.bus (idOfRaw ops.raw) (extOfRaw ops.raw) ops.data) := by
  rw [newData, if_neg (fun hid => h ((idOfRaw_too_long_iff ops.raw).mp hid)), if_neg (Nat.not_lt.mpr hlen)]

theorem buildComplete_of_absent {ops : BuildOperands} {s : State}
    (h : ¬ (ops.raw.getLsbD 30 || ops.raw.getLsbD 29) = true) (hlen : ops.data.length ≤ 8)
    (ha : routeTo s.cfg.routeMap ops.bus = .a1 ∧ s.cfg.numBuses = .one) : buildComplete ops s =
      unroutable (.data ops.bus (idOfRaw ops.raw) (extOfRaw ops.raw) ops.data) s := by
  rw [buildComplete, newData_of_valid h hlen]
  exact route_absent _ s ha.1 ha.2

theorem buildComplete_of_present {ops : BuildOperands} {s : State}
    (h : ¬ (ops.raw.getLsbD 30 || ops.raw.getLsbD 29) = true) (hlen : ops.data.length ≤ 8)
    (hp : ¬ (routeTo s.cfg.routeMap ops.bus = .a1 ∧ s.cfg.numBuses = .one)) : buildComplete ops s =
      emit (.adapter (routeTo s.cfg.routeMap ops.bus))
        (adapterEncode (.data ops.bus (idOfRaw ops.raw) (extOfRaw ops.raw) ops.data)) s := by
  rw [buildComplete, newData_of_valid h hlen]
  exact route_present _ s hp

/-- The 13 bytes of a Data frame: flag and length, identifier most significant byte first, payload, zeros (R80 to R82). -/
theorem adapterEncode_data (bus : BitVec 2) (id : Word32) (ext : Bool) {data : List Byte} (h : data.length ≤ 8) :
    adapterEncode (.data bus id ext data) = ((if ext then 0x80 else 0x00) + BitVec.ofNat 8 data.length) ::
      ([id.extractLsb' 24 8, id.extractLsb' 16 8, id.extractLsb' 8 8, id.extractLsb' 0 8] ++ data ++
        List.replicate (8 - data.length) 0x00) := by
  rw [← dataByte0 ext data.length h]
  rfl

/-- Settles O22: an identifier too long, a frame for an absent A1 under each policy, and a frame routed. -/
theorem buildCanFrameIsRoutedOrRecorded : Obligations.BuildCanFrameIsRoutedOrRecorded := by
  unfold Obligations.BuildCanFrameIsRoutedOrRecorded
  intro s i ops _ hops hwf
  have hlen : ops.data.length ≤ 8 := by
    rw [length_of_buildOps hops hwf]
    exact Nat.min_le_right _ _
  rw [exec_of_buildOps hops]
  dsimp only
  split
  · next hlong => rw [buildComplete_of_too_long hlong]
  · next hvalid =>
    change _ = if routeTo s.cfg.routeMap ops.bus = .a1 ∧ s.cfg.numBuses = .one then _ else _
    split
    · next habsent =>
      rw [buildComplete_of_absent (s := { s with cps := .idle }) hvalid hlen habsent, unroutable]
      cases s.cfg.unroutablePolicy <;> rfl
    · next hpresent =>
      rw [buildComplete_of_present (s := { s with cps := .idle }) hvalid hlen hpresent, adapterEncode_data _ _ _ hlen]
      rfl

/-! ## The frames of the families -/

/-- Settles O32: the frame of all meanings, then one frame for each family. -/
theorem meaningsKeepWhatTheirRulesDoNotList : Obligations.MeaningsKeepWhatTheirRulesDoNotList := by
  unfold Obligations.MeaningsKeepWhatTheirRulesDoNotList
  intro i s t _ _ h
  refine ⟨exec_frame h, ?_, ?_, fun hb => buildOps_frame hb h, fun hi => ?_, fun hi => ?_, ?_⟩
  · rintro rfl
    cases h
    rfl
  · rintro b rfl
    cases h
    rfl
  · have hrow : i ∈ responseRows.map Prod.fst := hi
    obtain ⟨⟨_, f⟩, hmem, rfl⟩ := List.mem_map.mp hrow
    rw [exec_of_responseRows hmem] at h
    cases h
    rfl
  · have hrow : i ∈ reservedRows.map Prod.fst := hi
    obtain ⟨⟨_, cid⟩, hmem, rfl⟩ := List.mem_map.mp hrow
    rw [exec_of_reservedRows hmem] at h
    cases h
    exact reserved_frame cid s
  · intro c ops hi
    refine exec_adapter_frame ?_ h
    rcases hi with rfl | rfl <;> exact beq_self_eq_true _

end Sys2Proof.Machine
end

section
/-! Two runs from states that differ in `MODE` and in the model's latch of the identifier alone. Every update but the writes of
these two fields commutes with replacing their values; the bytes that read them do the same thing in both runs. -/

namespace Sys2Proof.Machine

/-! ## States that agree but for their labels -/

/-- What is asked of the two values of `MODE`, and of the two values of the latch, in a pair of runs: demands that hold still
after a handshake in both and after an identifier byte in both. -/
structure LabelDemand where
  mode : Mode → Mode → Prop
  latch : Byte → Byte → Prop
  handshake : ∀ m n, mode m n → mode (if m = .init then .binary else m) (if n = .init then .binary else n)
  identifier : ∀ cid, latch cid cid

/-- Any two values of `MODE`, one value of the latch. -/
def LabelDemand.anyMode : LabelDemand where
  mode _ _ := True
  latch := Eq
  handshake _ _ _ := trivial
  identifier _ := rfl

/-- One value of `MODE`, any two values of the latch. -/
def LabelDemand.anyLatch : LabelDemand where
  mode := Eq
  latch _ _ := True
  handshake _ _ h := by rw [h]
  identifier _ := trivial

/-- The two states agree but for `MODE` and the latch, whose values are as demanded. -/
structure State.AgreeButLabels (D : LabelDemand) (s t : State) : Prop where
  rest : t = { s with mode := t.mode, cidLatch := t.cidLatch }
  mode : D.mode s.mode t.mode
  latch : D.latch s.cidLatch t.cidLatch

/-! ## Updates that do not see the labels -/

/-- An update that neither reads nor writes `MODE` and the latch. -/
def BlindToLabels (f : State → State) : Prop :=
  ∀ (u : State) (m : Mode) (l : Byte), f { u with mode := m, cidLatch := l } = { f u with mode := m, cidLatch := l }

namespace BlindToLabels

theorem comp {f g : State → State} (hf : BlindToLabels f) (hg : BlindToLabels g) : BlindToLabels fun u => f (g u) :=
  fun u m l => (congrArg f (hg u m l)).trans (hf (g u) m l)

theorem keeps_mode {f : State → State} (hf : BlindToLabels f) (u : State) : (f u).mode = u.mode :=
  (congrArg State.mode (hf u u.mode u.cidLatch) :)

theorem keeps_latch {f : State → State} (hf : BlindToLabels f) (u : State) : (f u).cidLatch = u.cidLatch :=
  (congrArg State.cidLatch (hf u u.mode u.cidLatch) :)

theorem withCps (c : Cps) : BlindToLabels fun u => { u with cps := c } := fun _ _ _ => rfl

theorem emit (p : Port) (xs : List Byte) : BlindToLabels (emit p xs) := fun _ _ _ => rfl

theorem raiseEvent (k : EventClass) (e : Event) : BlindToLabels (raiseEvent k e) := by
  intro u m l
  cases k <;> rfl

theorem setPort (p : Port) (c : PortContents) : BlindToLabels (State.setPort · p c) := by
  intro u m l
  rcases p with _ | _ | _ <;> rfl

theorem consume (p : Port) : BlindToLabels (State.consume · p) := by
  intro u m l
  rcases p with _ | _ | _ <;> rfl

theorem setAdapterRx (c : Conn) (r : AdapterRx) : BlindToLabels (State.setAdapterRx · c r) := by
  intro u m l
  cases c <;> rfl

theorem setAcnt (c : Conn) (n : Fin 13) : BlindToLabels (State.setAcnt · c n) := by
  intro u m l
  cases c <;> rfl

theorem writeCbuf (i : Fin 14) (b : Byte) : BlindToLabels (State.writeCbuf · i b) := fun _ _ _ => rfl

theorem route (f : Frame) : BlindToLabels (route f) := by
  intro u m l
  simp only [Machine.route, unroutable]
  split
  · rfl
  · split <;> rfl

theorem buildComplete (ops : BuildOperands) : BlindToLabels (buildComplete ops) := by
  intro u m l
  simp only [Machine.buildComplete]
  split
  · exact route _ u m l
  · rfl

theorem deliver (c : Conn) (r : Except FrameError Frame) : BlindToLabels (deliver c r) := by
  intro u m l
  simp only [Machine.deliver, ts32]
  split
  · rfl
  · split <;> rfl

theorem reserved (cid : Byte) : BlindToLabels (reserved cid) := by
  intro u m l
  simp only [Machine.reserved]
  split <;> rfl

end BlindToLabels

namespace State.AgreeButLabels

variable {D : LabelDemand} {s t : State}

/-! ## What such states have in common -/

theorem cps (h : s.AgreeButLabels D t) : t.cps = s.cps := (congrArg State.cps h.rest :)
theorem cbuf (h : s.AgreeButLabels D t) : t.cbuf = s.cbuf := (congrArg State.cbuf h.rest :)
theorem outq (h : s.AgreeButLabels D t) : t.outq = s.outq := (congrArg State.outq h.rest :)
theorem status (h : s.AgreeButLabels D t) : t.status = s.status := (congrArg State.status h.rest :)
theorem timer (h : s.AgreeButLabels D t) : t.timer = s.timer := (congrArg State.timer h.rest :)
theorem cfg (h : s.AgreeButLabels D t) : t.cfg = s.cfg := (congrArg State.cfg h.rest :)
theorem agenda (h : s.AgreeButLabels D t) : t.agenda = s.agenda := (congrArg State.agenda h.rest :)
theorem port (h : s.AgreeButLabels D t) (p : Port) : t.port p = s.port p := (congrArg (State.port · p) h.rest :)
theorem live (h : s.AgreeButLabels D t) (p : Port) : t.live p = s.live p := State.live_congr h.cfg p
theorem adapterRx (h : s.AgreeButLabels D t) (c : Conn) : t.adapterRx c = s.adapterRx c :=
  (congrArg (State.adapterRx · c) h.rest :)
theorem choosePort (h : s.AgreeButLabels D t) (c : Option Port) : t.choosePort c = s.choosePort c :=
  (congrArg (State.choosePort · c) h.rest :)

/-! ## Updates of both states alike -/

theorem update (h : s.AgreeButLabels D t) {f : State → State} (hf : BlindToLabels f) :
    (f s).AgreeButLabels D (f t) where
  rest := by
    rw [hf.keeps_mode t, hf.keeps_latch t, ← hf s, ← h.rest]
  mode := by rw [hf.keeps_mode, hf.keeps_mode]; exact h.mode
  latch := by rw [hf.keeps_latch, hf.keeps_latch]; exact h.latch

theorem withCps (h : s.AgreeButLabels D t) (c : Cps) :
    ({ s with cps := c } : State).AgreeButLabels D { t with cps := c } :=
  h.update (.withCps c)

theorem withAgenda (h : s.AgreeButLabels D t) (ts : List Turn) :
    ({ s with agenda := ts } : State).AgreeButLabels D { t with agenda := ts } :=
  h.update (f := fun u => { u with agenda := ts }) fun _ _ _ => rfl

theorem withTimer (h : s.AgreeButLabels D t) (v : Word64) :
    ({ s with timer := v } : State).AgreeButLabels D { t with timer := v } :=
  h.update (f := fun u => { u with timer := v }) fun _ _ _ => rfl

theorem withLatch (h : s.AgreeButLabels D t) (cid : Byte) :
    ({ s with cidLatch := cid } : State).AgreeButLabels D { t with cidLatch := cid } where
  rest := congrArg (fun u : State => { u with cidLatch := cid }) h.rest
  mode := h.mode
  latch := D.identifier cid

/-! ## The meanings -/

/-- The handshake writes `MODE` in both states, and nothing else. -/
theorem exec_hs (h : s.AgreeButLabels D t) : SameOutcome (State.AgreeButLabels D) (exec .hs s) (exec .hs t) where
  rest := congrArg (fun u : State => { u with mode := if t.mode = Mode.init then .binary else t.mode }) h.rest
  mode := D.handshake _ _ h.mode
  latch := h.latch

theorem exec (h : s.AgreeButLabels D t) (i : Instr) :
    SameOutcome (State.AgreeButLabels D) (exec i s) (exec i t) := by
  cases i with
  | hs => exact h.exec_hs
  | stray b => exact h
  | cmdBuild ops | cmdUnknown0F13 _ ops | cmdUnknown17FF _ ops => exact (h.withCps .idle).update (.buildComplete ops)
  | cmdTimesync => exact h.update (f := fun u => respond (respTimeSync u) { u with cps := .idle }) fun _ _ _ => rfl
  | cmdCanparams => exact h.update (f := fun u => respond (respCanBusParams u) { u with cps := .idle }) fun _ _ _ => rfl
  | cmdDevinfo => exact h.update (f := fun u => respond (respDevInfo u) { u with cps := .idle }) fun _ _ _ => rfl
  | cmdNumbuses => exact h.update (f := fun u => respond (respNumBuses u) { u with cps := .idle }) fun _ _ _ => rfl
  | cmdKeepalive | cmdExtbuses => exact (h.withCps .idle).update (.emit _ _)
  | rsvd02 | rsvd03 | rsvd04 | rsvd05 | rsvd08 | rsvd0A | rsvd0B | rsvd0E | rsvd14 | rsvd15 | rsvd16 =>
    exact h.update (.reserved _)
  | adpData c ops | adpRemote c ops => exact (h.update (.setAcnt c 0)).update (.deliver c _)

/-- The identifier names the row of a completed command and no more (R128). -/
theorem exec_builtInstr (h : s.AgreeButLabels D t) (n : Nat) :
    SameOutcome (State.AgreeButLabels D) (Machine.exec (s.builtInstr n) s) (Machine.exec (t.builtInstr n) t) := by
  rw [Machine.exec_builtInstr, Machine.exec_builtInstr, h.cbuf]
  exact h.exec _

/-- A byte in IDLE runs the handshake in both states or in neither: where `MODE` is not INIT the handshake changes nothing. -/
theorem exec_decodeIdle (h : s.AgreeButLabels D t) (b : Byte) : SameOutcome (State.AgreeButLabels D)
    (Machine.exec (decodeIdle s.mode b) s) (Machine.exec (decodeIdle t.mode b) t) := by
  rw [Machine.exec_decodeIdle, Machine.exec_decodeIdle]
  split
  · exact h.exec_hs
  · exact h

/-! ## The byte steps -/

theorem clientByte (h : s.AgreeButLabels D t) (b : Byte) :
    SameOutcome (State.AgreeButLabels D) (clientByte b s).outcome (clientByte b t).outcome := by
  unfold Machine.clientByte
  rw [h.cps]
  split
  · unfold idleByte
    split
    · exact h.withCps .cmdid
    · exact h.exec_decodeIdle b
  · unfold dispatchByte
    split
    · exact h.exec _
    · exact (h.withCps (.hdr 0)).withLatch b
  · next k _ =>
    have hw := h.update (.writeCbuf ⟨k.val, by omega⟩ b)
    unfold headerByte
    dsimp only
    split
    · exact hw.withCps _
    · split
      · exact hw.exec_builtInstr 0
      · exact hw.withCps _
  · next k n _ =>
    have hw := h.update (.writeCbuf ⟨6 + k.val, by omega⟩ b)
    unfold payloadByte
    dsimp only
    split
    · exact hw.withCps _
    · exact hw.exec_builtInstr n.val

theorem adapterByte (h : s.AgreeButLabels D t) (c : Conn) (b : Byte) :
    SameOutcome (State.AgreeButLabels D) (adapterByte c b s).outcome (adapterByte c b t).outcome := by
  rcases Nat.lt_or_ge (s.adapterRx c).acnt.val 12 with hlt | hge
  · rw [adapterByte_collects rfl hlt, adapterByte_collects (h.adapterRx c) hlt]
    exact h.update (.setAdapterRx c _)
  · have hlast : (s.adapterRx c).acnt = 12 := by omega
    rw [adapterByte_completes rfl hlast, adapterByte_completes (h.adapterRx c) hlast]
    exact (h.update (.setAdapterRx c _)).exec _

/-! ## The step -/

theorem serve (h : s.AgreeButLabels D t) (p : Port) (e : RxEvent) :
    SameOutcome (State.AgreeButLabels D) (serve p e s).outcome (serve p e t).outcome := by
  cases p with
  | client =>
    cases e with
    | byte b => exact h.clientByte b
    | err =>
      unfold Machine.serve clientReadError
      rw [h.cps]
      exact (h.update (.raiseEvent _ _)).withCps .idle
  | adapter c =>
    cases e with
    | byte b => exact h.adapterByte c b
    | err =>
      simp only [Machine.serve, adapterReadError, h.adapterRx]
      exact (h.update (.raiseEvent _ _)).update (.setAcnt c 0)

theorem inputStep (h : s.AgreeButLabels D t) (c : Option Port) :
    SameOutcome (State.AgreeButLabels D) (inputStep c s).outcome (inputStep c t).outcome := by
  unfold Machine.inputStep
  rw [h.choosePort]
  split
  · exact h
  · next p _ =>
    rw [h.port]
    split
    · exact h
    · exact (h.update (.consume p)).serve p _

theorem txStep (h : s.AgreeButLabels D t) (p : Port) (x : Byte) (xs : List Byte) :
    (txStep p x xs s).AgreeButLabels D (txStep p x xs t) := by
  unfold Machine.txStep transfer
  rw [h.port]
  split
  · exact (h.update (.setPort p _)).update (.emit p xs)
  · exact h
  · exact h.update (.raiseEvent _ _)

theorem blockStep (h : s.AgreeButLabels D t) (c : Option Port) :
    SameOutcome (State.AgreeButLabels D) (blockStep c s).outcome (blockStep c t).outcome := by
  unfold Machine.blockStep
  rw [h.status, h.outq]
  split
  · rfl
  · rfl
  · split
    · exact h.txStep _ _ _
    · exact h.inputStep c

theorem peerMove (h : s.AgreeButLabels D t) (p : Port) (c : PortContents) :
    (s.peerMove p c).AgreeButLabels D (t.peerMove p c) := by
  unfold State.peerMove
  rw [h.live]
  split
  · exact h.update (.setPort p c)
  · exact h

theorem step (h : s.AgreeButLabels D t) : SameOutcome (State.AgreeButLabels D) (step s) (step t) := by
  rw [step_eq, step_eq, fetch, fetch, h.agenda]
  split
  · exact h.blockStep none
  · exact (h.withAgenda _).blockStep _
  · next p e ts _ =>
    unfold offerMove
    rw [(h.withAgenda ts).port]
    exact (h.withAgenda ts).peerMove p _
  · next p c ts _ =>
    unfold acceptMove
    rw [(h.withAgenda ts).port]
    exact (h.withAgenda ts).peerMove p _
  · next v ts _ =>
    unfold timeMove
    rw [(h.withAgenda ts).timer]
    exact (h.withAgenda ts).withTimer _

theorem run (h : s.AgreeButLabels D t) (k : Nat) : SameOutcome (State.AgreeButLabels D) (s.run k) (t.run k) :=
  sameOutcome_run (fun _ _ hst => hst.step) k h

end State.AgreeButLabels

theorem SameOutcome.mono {R Q : State → State → Prop} (hRQ : ∀ s t, R s t → Q s t)
    {x y : Host.Outcome State Fault Refusal} (h : SameOutcome R x y) : SameOutcome Q x y := by
  cases x <;> cases y
  case next.next s t => exact hRQ s t h
  case fault.fault a b => exact h
  case refused.refused a b => exact h
  all_goals exact h.elim

/-- Settles O56: with any two values of `MODE` and one value of the latch, the runs go on agreeing but for `MODE`. -/
theorem modeIsInvisibleAtThePorts : Obligations.ModeIsInvisibleAtThePorts := by
  unfold Obligations.ModeIsInvisibleAtThePorts
  intro k s m
  have h : s.AgreeButLabels .anyMode { s with mode := m } := ⟨rfl, trivial, rfl⟩
  refine (h.run k).mono fun a b hab => ?_
  have hlatch : a.cidLatch = b.cidLatch := hab.latch
  rw [hlatch]
  exact hab.rest

/-- Settles O58: with any two values of the latch and one value of `MODE`, the runs go on agreeing but for the latch. -/
theorem identifierIsNotRetained : Obligations.IdentifierIsNotRetained := by
  unfold Obligations.IdentifierIsNotRetained
  intro k s cid
  have h : s.AgreeButLabels .anyLatch { s with cidLatch := cid } := ⟨rfl, rfl, trivial⟩
  refine (h.run k).mono fun a b hab => ?_
  have hmode : a.mode = b.mode := hab.mode
  rw [hmode]
  exact hab.rest

end Sys2Proof.Machine
end

section
/-! The adapter codec (43_adapter_codec.md): the byte step of a connection and its read error, what decoding a frame answers and
what its delivery does, and the round trip between a frame and its 13 bytes. -/

namespace Sys2Proof.Machine

/-! ## Receiving (R190, R195) -/

theorem step_adapterByte {s : State} {c : Conn} {b : Byte} (h : s.Serves (.adapter c) (.byte b)) :
    step s = (adapterByte c b (s.consumed (.adapter c))).outcome := step_of_serves h

/-- Before the 13th byte a byte is collected. -/
theorem step_adapterByte_collects {s : State} {c : Conn} {b : Byte} (h : s.Serves (.adapter c) (.byte b))
    (hlt : (s.adapterRx c).acnt.val < 12) :
    step s = .next ((s.consumed (.adapter c)).setAdapterRx c ((s.adapterRx c).collected b hlt)) := by
  rw [step_adapterByte h, adapterByte_collects (State.adapterRx_consumed ..) hlt, Fetched.outcome]

/-- The 13th byte runs the frame it completes. -/
theorem step_adapterByte_completes {s : State} {c : Conn} {b : Byte} (h : s.Serves (.adapter c) (.byte b))
    (hlast : (s.adapterRx c).acnt = 12) :
    step s = exec (framedInstr c ((s.adapterRx c).abuf.set 12 b))
      ((s.consumed (.adapter c)).setAdapterRx c ⟨12, (s.adapterRx c).abuf.set 12 b⟩) := by
  rw [step_adapterByte h, adapterByte_completes (State.adapterRx_consumed ..) hlast, Fetched.outcome]

/-- Settles O16: a byte before the 13th is collected, and the 13th runs the frame that the decoder reads from `ABUF[c]`. -/
theorem adapterByteIsStored : Obligations.AdapterByteIsStored := by
  unfold Obligations.AdapterByteIsStored
  intro s c b hs r
  exact ⟨fun hlt => step_adapterByte_collects hs hlt,
    fun hlast => ⟨_, decode_framed c _, step_adapterByte_completes hs hlast⟩⟩

/-- Settles O10: with 13 bytes the one served is the 13th, and the instruction is the one the decoder reads from them. -/
theorem stepRunsTheDecodedAdapterFrame : Obligations.StepRunsTheDecodedAdapterFrame := by
  unfold Obligations.StepRunsTheDecodedAdapterFrame
  intro s c b i B hs hB hi
  have hlast : (s.adapterRx c).acnt = 12 := by
    have hlen := congrArg List.length hB
    simp [State.adapterBytes] at hlen
    omega
  obtain rfl : B = (s.adapterRx c).abuf.set 12 b := by
    rw [← Vector.toList_inj, hB, State.adapterBytes, hlast, toList_set_last]
    rfl
  rw [decode_framed] at hi
  cases hi
  exact step_adapterByte_completes hs hlast

/-- Settles O18: the read error is recorded with the `ACNT[c]` it found, which then becomes 0. -/
theorem adapterReadErrorDropsTheFrame : Obligations.AdapterReadErrorDropsTheFrame := by
  unfold Obligations.AdapterReadErrorDropsTheFrame
  intro s c hs
  rw [step_of_serves hs, serve, Fetched.outcome, adapterReadError, State.adapterRx_consumed, setAcnt_eq]
  cases c <;> rfl

/-! ## What decoding answers (R192, R193) -/

/-- The identifier check comes first, then the length (R103, R192). -/
theorem decodeData_eq (c : Conn) (ops : AdapterOperands) : decodeData c ops =
    if idMask ops.ext < ops.id then .error .idTooLong
    else if 8 < ops.dlc.toNat then .error .dataTooLong
    else .ok (.data (busOf c) ops.id ops.ext (ops.payload.take ops.dlc.toNat)) := by
  simp only [decodeData, newData, dlc_gt_iff]
  by_cases hlong : 8 < ops.dlc.toNat
  · simp only [if_pos hlong]
  · have htake : ¬ 8 < (ops.payload.take ops.dlc.toNat).length := fun h => hlong (h.trans_le (List.length_take_le _ _))
    simp only [if_neg hlong, if_neg htake]

theorem decodeRemote_eq (c : Conn) (ops : AdapterOperands) : decodeRemote c ops =
    if idMask ops.ext < ops.id then .error .idTooLong
    else if 8 < ops.dlc.toNat then .error .dataTooLong
    else .ok (.remote (busOf c) ops.id ops.ext ops.dlc) := by
  simp only [decodeRemote, newRemote, dlc_gt_iff]

theorem decodeData_eq_ok_iff {c : Conn} {ops : AdapterOperands} {f : Frame} : decodeData c ops = .ok f ↔
    ops.id ≤ idMask ops.ext ∧ ops.dlc.toNat ≤ 8 ∧
      .data (busOf c) ops.id ops.ext (ops.payload.take ops.dlc.toNat) = f := by
  rw [decodeData_eq, ← BitVec.not_lt, ← Nat.not_lt]
  split
  · simp [*]
  · split <;> simp [*]

theorem decodeRemote_eq_ok_iff {c : Conn} {ops : AdapterOperands} {f : Frame} : decodeRemote c ops = .ok f ↔
    ops.id ≤ idMask ops.ext ∧ ops.dlc.toNat ≤ 8 ∧ .remote (busOf c) ops.id ops.ext ops.dlc = f := by
  rw [decodeRemote_eq, ← BitVec.not_lt, ← Nat.not_lt]
  split
  · simp [*]
  · split <;> simp [*]

/-! ## What delivery does (R194) -/

/-- The telemetry of a Data frame: marker, timestamp, identifier with the flag in bit 31, bus and length, payload, zero (R172,
R173). -/
theorem telemetry_data (ts : Word32) (c : Conn) (id : Word32) (ext : Bool) {data : List Byte} (h : data.length ≤ 8) :
    telemetry ts (.data (busOf c) id ext data) = some (0xF1 :: ([0x00] ++ le4 ts ++
      [id.extractLsb' 0 8, id.extractLsb' 8 8, id.extractLsb' 16 8,
        id.extractLsb' 24 8 ||| (if ext then 0x80 else 0x00)] ++
      [(if c = .a1 then 0x10 else 0x00) + BitVec.ofNat 8 data.length] ++ data ++ [0x00])) := by
  rw [← busLengthByte c data.length h, ← le4_or_extBit31]
  exact if_neg (Nat.not_lt.mpr h)

/-- A validation failure is recorded and nothing else. -/
theorem deliver_error (c : Conn) (e : FrameError) (s : State) :
    deliver c (.error e) s = { s with evlog := s.evlog ++ [adapterErrorEvent c e] } := rfl

/-- A Remote frame has no telemetry (R171). -/
theorem telemetry_remote (ts : Word32) (bus : BitVec 2) (id : Word32) (ext : Bool) (dlc : BitVec 4) :
    telemetry ts (.remote bus id ext dlc) = none := rfl

/-- Settles O30: an identifier too long, a length too long, and a valid frame, whose telemetry is emitted. -/
theorem adapterDataBecomesTelemetry : Obligations.AdapterDataBecomesTelemetry := by
  unfold Obligations.AdapterDataBecomesTelemetry
  intro s c ops _ hwf
  have hpayload : ops.payload.length = 8 := beq_iff_eq.mp hwf
  rw [exec, execAdpData, decodeData_eq, setAcnt_eq]
  simp only [← idMask_lt_iff]
  by_cases hid : idMask ops.ext < ops.id
  · simp only [if_pos hid, deliver_error, adapterErrorEvent, State.setAdapterRx_evlog]
  · by_cases hdlc : 8 < ops.dlc.toNat
    · simp only [if_neg hid, if_pos hdlc, deliver_error, adapterErrorEvent, State.setAdapterRx_evlog]
    · have hlen : (ops.payload.take ops.dlc.toNat).length = ops.dlc.toNat := by
        rw [List.length_take, hpayload]
        omega
      have htel (u : State) := telemetry_data (ts32 u) c ops.id ops.ext (hlen.le.trans (Nat.not_lt.mp hdlc))
      simp only [if_neg hid, if_neg hdlc, deliver_sent _ _ _ _ (htel _), le4_ts32, hlen, emit,
        OutQ.ofList_cons, State.setAdapterRx_timer]

/-- Settles O31: every answer of decoding a Remote frame is an event, for a valid frame that it has no telemetry. -/
theorem adapterRemoteSendsNothing : Obligations.AdapterRemoteSendsNothing := by
  unfold Obligations.AdapterRemoteSendsNothing
  intro s c ops _ _
  rw [exec, execAdpRemote, decodeRemote_eq, setAcnt_eq]
  simp only [← idMask_lt_iff]
  by_cases hid : idMask ops.ext < ops.id
  · simp only [if_pos hid, deliver_error, adapterErrorEvent, State.setAdapterRx_evlog]
  · by_cases hdlc : 8 < ops.dlc.toNat
    · simp only [if_neg hid, if_pos hdlc, deliver_error, adapterErrorEvent, State.setAdapterRx_evlog]
    · simp only [if_neg hid, if_neg hdlc, deliver_rejected _ _ _ (telemetry_remote ..), raiseEvent,
        State.setAdapterRx_evlog]

/-! ## The fields of a frame (R196, R197) -/

/-- The payload bytes that a frame carries; a Remote frame carries none. -/
def Frame.bytes (f : Frame) : List Byte := f.payload.getD []

/-- The remote-frame flag of a frame (R80). -/
def Frame.rtr (f : Frame) : Bool := f.payload.isNone

/-- The fields of the 13 bytes that a frame is encoded to: ignored bits and padding are zero. -/
def Frame.fields (f : Frame) : AdapterOperands where
  ext := f.ext
  ign := 0
  dlc := BitVec.ofNat 4 f.dlc
  id := f.id
  payload := f.bytes ++ zeros (8 - f.bytes.length)

@[simp] theorem Frame.bytes_data (bus : BitVec 2) (id : Word32) (ext : Bool) (data : List Byte) :
    (Frame.data bus id ext data).bytes = data := rfl

@[simp] theorem Frame.bytes_remote (bus : BitVec 2) (id : Word32) (ext : Bool) (dlc : BitVec 4) :
    (Frame.remote bus id ext dlc).bytes = [] := rfl

@[simp] theorem Frame.fields_data (bus : BitVec 2) (id : Word32) (ext : Bool) (data : List Byte) :
    (Frame.data bus id ext data).fields =
      ⟨ext, 0, BitVec.ofNat 4 data.length, id, data ++ zeros (8 - data.length)⟩ := rfl

@[simp] theorem Frame.fields_remote (bus : BitVec 2) (id : Word32) (ext : Bool) (dlc : BitVec 4) :
    (Frame.remote bus id ext dlc).fields = ⟨ext, 0, dlc, id, zeros 8⟩ := by
  simp [Frame.fields, Frame.ext, Frame.dlc, Frame.id]

theorem Frame.ign_fields (f : Frame) : f.fields.ign = 0 := rfl

theorem Frame.valid_iff (f : Frame) : f.valid = true ↔ f.id ≤ idMask f.ext ∧ f.dlc ≤ 8 := by
  simp [Frame.valid]

theorem Frame.length_bytes_le {f : Frame} (h : f.valid = true) : f.bytes.length ≤ 8 := by
  obtain ⟨-, hdlc⟩ := f.valid_iff.mp h
  cases f with
  | data => exact hdlc
  | remote => exact Nat.zero_le 8

theorem Frame.wf_fields {f : Frame} (h : f.valid = true) : f.fields.wf = true :=
  beq_iff_eq.mpr (length_append_zeros (Frame.length_bytes_le h))

theorem rtrBit6_eq (f : Frame) : rtrBit6 f = (BitVec.ofBool f.rtr).setWidth 8 <<< 6 := by
  cases f <;> rfl

/-- Adapter byte 0 with its ignored bits zero is the disjunction of its fields in place (R80). -/
theorem adapterByte0_of_ign {ops : AdapterOperands} (rtr : Bool) (h : ops.ign = 0) : adapterByte0 rtr ops =
    extBit7 ops.ext ||| (BitVec.ofBool rtr).setWidth 8 <<< 6 ||| ops.dlc.setWidth 8 := by
  obtain ⟨ext, ign, dlc, id, payload⟩ := ops
  obtain rfl : ign = 0 := h
  simp only [adapterByte0]
  revert ext rtr dlc
  decide

/-- A length of at most 8 keeps its value in the four bits of byte 0. -/
theorem setWidth_ofNat_dlc {n : Nat} (h : n ≤ 8) : (BitVec.ofNat 4 n).setWidth 8 = BitVec.ofNat 8 n := by
  interval_cases n <;> rfl

/-- The frame's encoder writes the 13 bytes of the frame's fields. -/
theorem adapterEncode_eq {f : Frame} (h : f.valid = true) : adapterEncode f = encodeAdapter f.rtr f.fields := by
  obtain ⟨-, hdlc⟩ := f.valid_iff.mp h
  rw [encodeAdapter, adapterByte0_of_ign f.rtr f.ign_fields, ← rtrBit6_eq]
  cases f with
  | data bus id ext data =>
    have hwidth : (BitVec.ofNat 4 data.length).setWidth 8 = BitVec.ofNat 8 data.length := setWidth_ofNat_dlc hdlc
    simp only [Frame.fields_data, hwidth]
    exact List.append_assoc _ _ _
  | remote bus id ext dlc =>
    rw [Frame.fields_remote]
    rfl

/-! ## The round trip (R198) -/

/-- Decoding the fields of a valid frame gives the frame, on the connection's bus. -/
theorem frameOf_fields {f : Frame} (h : f.valid = true) (c : Conn) :
    frameOf (if f.rtr then .adpRemote c f.fields else .adpData c f.fields) = some (.ok (f.onBus (busOf c))) := by
  obtain ⟨hid, hdlc⟩ := f.valid_iff.mp h
  cases f with
  | data bus id ext data =>
    have hcode : (BitVec.ofNat 4 data.length).toNat = data.length :=
      (BitVec.toNat_ofNat ..).trans (Nat.mod_eq_of_lt (Nat.lt_of_le_of_lt hdlc (by decide)))
    refine congrArg some (decodeData_eq_ok_iff.mpr ⟨hid, hcode.trans_le hdlc, ?_⟩)
    exact congrArg (Frame.data (busOf c) id ext) (List.take_left' hcode.symm)
  | remote bus id ext dlc =>
    rw [Frame.fields_remote]
    exact congrArg some (decodeRemote_eq_ok_iff.mpr ⟨hid, hdlc, rfl⟩)

/-- The fields of a decoded frame are those it was decoded from, but for the ignored bits and the bytes past the payload. -/
theorem fields_of_frameOf {c : Conn} {rtr : Bool} {ops : AdapterOperands} {f : Frame} (hp : ops.payload.length = 8)
    (h : frameOf (if rtr then .adpRemote c ops else .adpData c ops) = some (.ok f)) :
    f.valid = true ∧ f.rtr = rtr ∧ f.fields =
      { ops with ign := 0, payload := ops.payload.take f.bytes.length ++ zeros (8 - f.bytes.length) } := by
  cases rtr with
  | false =>
    obtain ⟨hid, hdlc, rfl⟩ := decodeData_eq_ok_iff.mp (Option.some.inj h)
    have hlen : (ops.payload.take ops.dlc.toNat).length = ops.dlc.toNat := by
      rw [List.length_take, hp]
      omega
    refine ⟨(Frame.valid_iff _).mpr ⟨hid, hlen.trans_le hdlc⟩, rfl, ?_⟩
    simp [hlen]
  | true =>
    obtain ⟨hid, hdlc, rfl⟩ := decodeRemote_eq_ok_iff.mp (Option.some.inj h)
    exact ⟨(Frame.valid_iff _).mpr ⟨hid, hdlc⟩, rfl, by simp⟩

/-- The encoder gives back the bytes of a frame whose fields were read, flag by flag and byte by byte. -/
theorem encodeAdapter_adapterOperands (b0 b1 b2 b3 b4 : Byte) (p : List Byte) :
    encodeAdapter (rtrBit b0) (adapterOperands b0 b1 b2 b3 b4 p) = b0 :: b1 :: b2 :: b3 :: b4 :: p := by
  rw [← encode_adapterInstr .a0, adapterInstr]
  cases rtrBit b0 <;> rfl

theorem extractLsb'_adapterByte0 (rtr : Bool) (ops : AdapterOperands) :
    (adapterByte0 rtr ops).extractLsb' 4 2 = ops.ign := by
  obtain ⟨-, -, hign, -⟩ := adapterByte0_fields rtr ops
  exact hign

/-- The encoder tells ignored bits and payloads apart. -/
theorem encodeAdapter_eq_iff (rtr : Bool) (ops : AdapterOperands) (ign : BitVec 2) (payload : List Byte) :
    encodeAdapter rtr { ops with ign := ign, payload := payload } = encodeAdapter rtr ops ↔
      ops.ign = ign ∧ payload = ops.payload := by
  constructor
  · intro h
    simp only [encodeAdapter, be4, List.cons_append, List.nil_append, List.cons.injEq, true_and] at h
    obtain ⟨hbyte, hpayload⟩ := h
    refine ⟨?_, hpayload⟩
    rw [← extractLsb'_adapterByte0 rtr ops, ← hbyte, extractLsb'_adapterByte0]
  · rintro ⟨rfl, rfl⟩
    rfl

/-- Replacing the bytes past the first `n` by zeros changes nothing exactly when they are zeros. -/
theorem take_append_zeros_eq_iff (p : List Byte) (n : Nat) :
    p.take n ++ zeros (p.length - n) = p ↔ ∀ j, n ≤ j → j < p.length → p.getD j 0 = 0 := by
  have hdrop : p.take n ++ zeros (p.length - n) = p ↔ ∀ x ∈ p.drop n, x = 0 := by
    have hcancel := List.append_right_inj (p.take n) (t₁ := zeros (p.length - n)) (t₂ := p.drop n)
    rw [List.take_append_drop] at hcancel
    rw [hcancel, eq_comm, zeros, List.eq_replicate_iff, List.length_drop, and_iff_right rfl]
  rw [hdrop, List.forall_mem_iff_getElem]
  constructor
  · intro h j hn hj
    obtain ⟨k, rfl⟩ := Nat.exists_eq_add_of_le hn
    rw [List.getD_eq_getElem _ _ hj, ← List.getElem_drop]
    exact h k (by rw [List.length_drop]; omega)
  · intro h k hk
    rw [List.length_drop] at hk
    rw [List.getElem_drop, ← List.getD_eq_getElem _ 0]
    exact h (n + k) (by omega) (by omega)

/-- The bytes of a frame from its place `5 + n` on are those of its payload from its place `n` on (R79). -/
theorem forall_getD_frame_iff (b0 b1 b2 b3 b4 : Byte) (p : List Byte) (n : Nat) :
    (∀ j, n ≤ j → j < p.length → p.getD j 0 = 0) ↔
      ∀ j, 5 + n ≤ j → j < 5 + p.length → (b0 :: b1 :: b2 :: b3 :: b4 :: p).getD j 0 = 0 := by
  have hshift (j : Nat) : (b0 :: b1 :: b2 :: b3 :: b4 :: p).getD (j + 5) 0 = p.getD j 0 := rfl
  constructor
  · intro h j hn hj
    obtain ⟨k, rfl⟩ := Nat.exists_eq_add_of_le' (Nat.le_trans (Nat.le_add_right 5 n) hn)
    rw [hshift]
    exact h k (by omega) (by omega)
  · intro h j hn hj
    rw [← hshift]
    exact h (j + 5) (by omega) (by omega)

/-- Settles O35: a valid frame is encoded as its fields, which are decoded to it; a decoded frame is encoded to the bytes it
came from when zeroing the ignored bits and the padding changed nothing. -/
theorem adapterCodecRoundTrip : Obligations.AdapterCodecRoundTrip := by
  unfold Obligations.AdapterCodecRoundTrip
  constructor
  · intro c f hf
    have hbus : (if c = .a1 then 1 else 0) = busOf c := by cases c <;> rfl
    rw [hbus, adapterEncode_eq hf]
    exact ⟨_, (IsTransaction.encode_fields c f.rtr (Frame.wf_fields hf)).decode_self, frameOf_fields hf c⟩
  · intro c B i f hdec hf
    obtain ⟨w, hw, rfl⟩ := IsTransaction.of_decode hdec
    rw [List.append_nil]
    cases hw with
    | @frame _ b0 b1 b2 b3 b4 p hp =>
      obtain ⟨hvalid, hrtr, hfields⟩ := fields_of_frameOf hp hf
      have hencode := encodeAdapter_eq_iff (rtrBit b0) (adapterOperands b0 b1 b2 b3 b4 p) 0
        (p.take f.bytes.length ++ zeros (p.length - f.bytes.length))
      rw [encodeAdapter_adapterOperands, hp] at hencode
      rw [adapterEncode_eq hvalid, hrtr, hfields]
      refine hencode.trans (and_congr_right' ?_)
      have hpad := take_append_zeros_eq_iff p f.bytes.length
      rw [forall_getD_frame_iff b0 b1 b2 b3 b4, hp] at hpad
      exact hpad

end Sys2Proof.Machine
end

section
/-! The router's turns: for which port a transaction's output is, what a turn of the block does with output and with input,
and that a port which is not live is left alone. -/

namespace Sys2Proof.Machine

section

/-! ## The port a transaction's output is for (R222, R225, R226) -/

/-- What `OUTQ` holds, if anything, is for a port that satisfies `P`. -/
def State.OutputFor (P : Port → Prop) (s : State) : Prop := ∀ p x xs, s.outq = .holding p x xs → P p

variable {P : Port → Prop} {s t : State}

theorem State.OutputFor.of_empty (h : s.outq = .empty) : s.OutputFor P := by
  intro p x xs hq
  rw [h] at hq
  cases hq

theorem State.OutputFor.congr (h : s.OutputFor P) (hq : t.outq = s.outq) : t.OutputFor P := by
  unfold State.OutputFor
  rwa [hq]

theorem emit_outputFor {p : Port} (hp : P p) (bs : List Byte) (s : State) : (emit p bs s).OutputFor P := by
  intro q x xs hq
  cases bs with
  | nil => cases hq
  | cons b bs => cases hq; exact hp

theorem raiseEvent_outputFor (k : EventClass) (e : Event) (h : s.OutputFor P) : (raiseEvent k e s).OutputFor P :=
  h.congr (raiseEvent_outq s k e)

theorem route_outputFor (f : Frame) (hP : ∀ c, P (.adapter c)) (h : s.OutputFor P) : (route f s).OutputFor P := by
  unfold route
  split
  · exact emit_outputFor (hP _) _ _
  · unfold unroutable
    split <;> exact raiseEvent_outputFor _ _ h

theorem buildComplete_outputFor (ops : BuildOperands) (hP : ∀ c, P (.adapter c)) (h : s.OutputFor P) :
    (buildComplete ops s).OutputFor P := by
  unfold buildComplete
  split
  · exact route_outputFor _ hP h
  · exact raiseEvent_outputFor _ _ h

theorem deliver_outputFor (c : Conn) (r : Except FrameError Frame) (hP : P .client) (h : s.OutputFor P) :
    (deliver c r s).OutputFor P := by
  unfold deliver
  split
  · exact raiseEvent_outputFor _ _ h
  · split
    · exact raiseEvent_outputFor _ _ h
    · exact emit_outputFor hP _ _

theorem respond_outputFor (bs : List Byte) (s : State) (hP : P .client) : (respond bs s).OutputFor P :=
  emit_outputFor hP bs s

theorem reserved_outputFor (cid : Byte) (h : s.OutputFor P) : (reserved cid s).OutputFor P :=
  h.congr (by rw [reserved_frame])

/-- A BuildCanFrame or an alias of it sends to an adapter only (R127, R222). -/
theorem exec_outputFor_adapter {i : Instr} (hb : (buildOps i).isSome) (hq : s.outq = .empty) (h : exec i s = .next t) :
    t.OutputFor (· ≠ .client) := by
  obtain ⟨ops, hops⟩ := Option.isSome_iff_exists.mp hb
  rw [exec_of_buildOps hops] at h
  cases h
  exact buildComplete_outputFor ops (by simp) (.of_empty hq)

/-- Any other transaction sends to the client only (R225, R226). -/
theorem exec_outputFor_client {i : Instr} (hb : ¬ (buildOps i).isSome) (hq : s.outq = .empty) (h : exec i s = .next t) :
    t.OutputFor (· = .client) := by
  cases i with
  | cmdBuild | cmdUnknown0F13 | cmdUnknown17FF => exact absurd rfl hb
  | hs | stray => cases h; exact .of_empty hq
  | cmdTimesync | cmdCanparams | cmdDevinfo | cmdKeepalive | cmdNumbuses | cmdExtbuses =>
    cases h
    exact respond_outputFor _ _ rfl
  | rsvd02 | rsvd03 | rsvd04 | rsvd05 | rsvd08 | rsvd0A | rsvd0B | rsvd0E | rsvd14 | rsvd15 | rsvd16 =>
    cases h
    exact reserved_outputFor _ (.of_empty hq)
  | adpData c | adpRemote c =>
    cases h
    exact deliver_outputFor c _ rfl (.of_empty (by rw [setAcnt_eq, State.setAdapterRx_outq, hq]))

/-- Where no output was held, output held after a meaning is the transaction's one service (R230). -/
theorem exec_holding {i : Instr} {p : Port} {x : Byte} {xs : List Byte} (hq : s.outq = .empty) (h : exec i s = .next t)
    (ht : t.outq = .holding p x xs) : xs.length ≤ 19 ∧ t.evlog = s.evlog ∧ t.status = s.status := by
  cases exec_service h with
  | nothing outq => simp [outq, hq] at ht
  | event e outq => simp [outq, hq] at ht
  | fault e outq => simp [outq, hq] at ht
  | emits q y ys outq evlog status cause length live =>
    rw [outq] at ht
    cases ht
    exact ⟨length, evlog, status⟩

/-! ## A turn of the block with output (R221) -/

theorem txStep_error {p : Port} (x : Byte) (xs : List Byte) (h : (s.port p).tx = .error) :
    txStep p x xs s = raiseEvent .fatal (.writeError p) s := by
  simp only [txStep, h]

theorem txStep_notReady {p : Port} (x : Byte) (xs : List Byte) (h : (s.port p).tx = .notReady) : txStep p x xs s = s := by
  simp only [txStep, h]

theorem port_txStep_ne {p q : Port} (x : Byte) (xs : List Byte) (s : State) (h : q ≠ p) :
    (txStep p x xs s).port q = s.port q := by
  unfold txStep
  split
  · rw [port_emit, transfer, State.port_setPort_ne _ _ _ _ h]
  · rfl
  · rfl

/-! ## A turn of the block without output (R220) -/

/-- The block chooses no port exactly when none is ready. -/
theorem State.choosePort_eq_none_iff (s : State) (c : Option Port) :
    s.choosePort c = none ↔ ∀ p, s.readyPort p = false := by
  refine ⟨State.choosePort_none, fun h => ?_⟩
  cases hp : s.choosePort c with
  | none => rfl
  | some p => exact absurd (State.choosePort_ready hp) (by simp [h p])

theorem State.readyPort_iff (s : State) (p : Port) : s.readyPort p = true ↔ s.live p = true ∧ (s.port p).rx ≠ [] := by
  simp [State.readyPort]

/-- A block that can serve and has its turn serves, while some port is ready, a port that is ready. -/
theorem State.serves_of_ready {c : Option Port} {p : Port} (hs : s.CanServe) (hc : s.blockChoice = some c)
    (hp : s.readyPort p = true) : ∃ q e, s.Serves q e := by
  obtain ⟨q, hq⟩ := State.choosePort_some c hp
  obtain ⟨-, e, es, hrx⟩ := State.offers_of_ready (State.choosePort_ready hq)
  exact ⟨q, e, hs, ⟨c, hc, hq⟩, by rw [hrx, List.head?_cons]⟩

theorem step_waits {c : Option Port} (hs : s.CanServe) (hc : s.blockChoice = some c) (hp : s.choosePort c = none) :
    step s = .next { s with agenda := s.agenda.tail } := by
  rw [step_eq, fetch_of_blockChoice hc, blockStep_input (u := { s with agenda := s.agenda.tail }) hs.1 hs.2,
    inputStep_waits (s := { s with agenda := s.agenda.tail }) hp, Fetched.outcome]

theorem State.port_consumed_same (s : State) (p : Port) :
    (s.consumed p).port p = { s.port p with rx := (s.port p).rx.tail } := by
  rw [State.consumed_eq, State.port_consume_same, State.port_withAgenda]

/-- Serving an event takes that event from its port. -/
theorem step_serves_rx {p : Port} {e : RxEvent} (hs : s.Serves p e) (h : step s = .next t) :
    (s.port p).rx = e :: (t.port p).rx := by
  rw [step_of_serves hs] at h
  obtain ⟨-, -, hhead⟩ := hs
  rw [serve_port h, State.port_consumed_same]
  exact (List.cons_head?_tail hhead).symm

/-! ## A port that is not live (R53, R227) -/

theorem State.port_peerMove_absent {p : Port} (q : Port) (c : PortContents) (h : s.live p = false) :
    (s.peerMove q c).port p = s.port p := by
  by_cases hq : s.live q = true
  · rw [State.peerMove_live c hq, State.port_setPort_ne]
    rintro rfl
    simp [h] at hq
  · rw [State.peerMove_absent c (by simpa using hq)]

/-- No step touches the contents of a port that is not live. -/
theorem step_port_absent {p : Port} (hq : s.outqLegal = true) (hp : s.live p = false) (h : step s = .next t) :
    t.port p = s.port p := by
  have ne_of_live {q : Port} (hl : s.live q = true) : p ≠ q := by
    rintro rfl
    simp [hp] at hl
  have hp' (ts : List Turn) : ({ s with agenda := ts } : State).live p = false := hp
  cases step_cases h with
  | offered q e ts _ eq => rw [eq, offerMove, State.port_peerMove_absent q _ (hp' ts), State.port_withAgenda]
  | accepted q c ts _ eq => rw [eq, acceptMove, State.port_peerMove_absent q _ (hp' ts), State.port_withAgenda]
  | timed v ts _ eq =>
    rw [eq]
    rcases p with _ | _ | _ <;> rfl
  | sent c q x xs _ _ outq eq =>
    rw [eq, port_txStep_ne x xs _ (ne_of_live ((State.outqLegal_of_holding outq).mp hq).2), State.port_withAgenda]
  | waited c _ _ _ eq => rw [eq, State.port_withAgenda]
  | served q e hs eq => rw [serve_port eq, State.port_consumed_ne s (ne_of_live (State.live_of_serves hs))]

/-- No step touches the receive path of a connection that does not exist. -/
theorem step_adapterRx_absent {c : Conn} (hc : s.live (.adapter c) = false) (h : step s = .next t) :
    t.adapterRx c = s.adapterRx c := by
  by_cases hn : ∀ p e, ¬ s.Serves p e
  · rw [step_unserved_frame h hn]
    rfl
  · push Not at hn
    obtain ⟨p, e, hs⟩ := hn
    obtain ⟨-, hkeeps, -⟩ := portsKeepTheirOwnPartialInput s t p e hs h
    refine hkeeps c ?_
    rintro rfl
    exact absurd (State.live_of_serves hs) (by simp [hc])

end

/-! ## The router's statements -/

/-- Settles O33: the service of the transaction, and the port that its row sends to. -/
theorem transactionProducesOneServiceForOnePort : Obligations.TransactionProducesOneServiceForOnePort := by
  unfold Obligations.TransactionProducesOneServiceForOnePort
  intro i s t p x xs hs _ h ht
  refine ⟨?_, exec_holding hs.2 h ht⟩
  by_cases hb : (buildOps i).isSome
  · exact iff_of_true (exec_outputFor_adapter hb hs.2 h p x xs ht) hb
  · exact iff_of_false (not_not.mpr (exec_outputFor_client hb hs.2 h p x xs ht)) hb

/-- Settles O38, by the condition of the port. -/
theorem transmitStepMovesOneByteOrHalts : Obligations.TransmitStepMovesOneByteOrHalts := by
  unfold Obligations.TransmitStepMovesOneByteOrHalts
  intro s q p x xs ts hrun ha hq
  rw [step_of_holding hrun hq ha]
  refine ⟨fun htx => ?_, fun htx => ?_, fun htx => ?_⟩ <;> rw [← State.port_withAgenda s ts p] at htx
  · rw [txStep_ready htx]
    cases xs <;> rcases p with _ | _ | _ <;> rfl
  · rw [txStep_error x xs htx]
    rfl
  · rw [txStep_notReady x xs htx]

/-- Settles O41: the port that the turn names is ready, so it is the one served. -/
theorem everyReadyPortMayBeServed : Obligations.EveryReadyPortMayBeServed := by
  unfold Obligations.EveryReadyPortMayBeServed
  intro s p e es ts hs hp hrx ha
  have hserves : s.Serves p e := State.serves_of_turn hs ha ((State.live_iff s p).mpr hp) (by rw [hrx, List.head?_cons])
  obtain ⟨t, ht⟩ := serves_next hserves
  obtain ⟨-, hes⟩ := List.cons.inj (hrx.symm.trans (step_serves_rx hserves ht))
  obtain ⟨-, -, hothers⟩ := portsKeepTheirOwnPartialInput s t p e hserves ht
  exact ⟨t, ht, hes.symm, hothers⟩

/-- Settles O42: with some port ready the free choice takes a port, and one that is ready. -/
theorem blockServesSomeReadyPort : Obligations.BlockServesSomeReadyPort := by
  unfold Obligations.BlockServesSomeReadyPort
  intro s p hs ha hp hrx
  have hready : s.readyPort p = true := (s.readyPort_iff p).mpr ⟨(s.live_iff p).mpr hp, hrx⟩
  obtain ⟨q, e, hserves⟩ := State.serves_of_ready hs (c := none) (by rw [State.blockChoice, ha]) hready
  obtain ⟨t, ht⟩ := serves_next hserves
  exact ⟨q, e, t, (s.live_iff q).mp (State.live_of_serves hserves), hserves, ht, step_serves_rx hserves ht⟩

/-- Settles O43: with one bus A1's port is not live, and no step touches a port or a receive path that is not live. -/
theorem absentConnectionIsNeverUsed : Obligations.AbsentConnectionIsNeverUsed := by
  unfold Obligations.AbsentConnectionIsNeverUsed
  intro s t hi h1 h
  have habsent : s.live (.adapter .a1) = false := (s.live_eq_false_iff _).mpr ⟨rfl, h1⟩
  have hport : t.portA1 = s.portA1 := step_port_absent hi.outq_legal habsent h
  exact ⟨⟨[], by rw [hport, List.append_nil]⟩, by rw [hport], step_adapterRx_absent habsent h⟩

/-- Settles O44: with no port ready the block chooses none. -/
theorem blockWaitsWithStateUnchanged : Obligations.BlockWaitsWithStateUnchanged := by
  unfold Obligations.BlockWaitsWithStateUnchanged
  intro s q ts hs hC h0 h1 ha
  have hnone : s.choosePort (some q) = none := by
    rw [State.choosePort_eq_none_iff]
    intro p
    rw [← Bool.not_eq_true, State.readyPort_iff, State.live_iff]
    rintro ⟨hlive, hrx⟩
    rcases p with _ | _ | _
    · exact hrx hC
    · exact hrx h0
    · exact hrx (h1 (hlive rfl))
  rw [step_waits hs (by rw [State.blockChoice, ha]) hnone, ha, List.tail_cons]

end Sys2Proof.Machine
end

section
/-! Progress of a fair run (R220, R296): an event waits at the head of its port until it is served, output that the environment
accepts drains, so the block chooses again and again and fairness serves the port. -/

namespace Sys2Proof.Machine

/-! ## A step that does not serve a port, and one that serves none -/

section
variable {s t : State}

/-- The event served is the one that stands first at the port. -/
theorem State.Serves.head_eq {p : Port} {d e : RxEvent} (h : s.Serves p d) (hhead : (s.port p).rx.head? = some e) :
    e = d := by
  obtain ⟨-, -, hd⟩ := h
  exact Option.some.inj (hhead.symm.trans hd)

/-- A step that does not serve `p` takes nothing from its receive port. -/
theorem step_rx_of_not_served {p : Port} (h : step s = .next t) (hn : ∀ e, ¬ s.Serves p e) :
    ∃ more, (t.port p).rx = (s.port p).rx ++ more := by
  by_cases hnone : ∀ q e, ¬ s.Serves q e
  · exact step_unserved_rx h hnone p
  · push Not at hnone
    obtain ⟨q, e, hs⟩ := hnone
    have hpq : p ≠ q := by
      rintro rfl
      exact hn e hs
    obtain ⟨-, -, hothers⟩ := portsKeepTheirOwnPartialInput s t q e hs h
    exact ⟨[], by rw [hothers p hpq, List.append_nil]⟩

theorem OutQ.exists_eq_ofList (q : OutQ) : ∃ p bs, q = OutQ.ofList p bs := by
  cases q with
  | empty => exact ⟨.client, [], rfl⟩
  | holding p x xs => exact ⟨p, x :: xs, rfl⟩

/-- Draining leaves `OUTQ` as it is or without its first byte. -/
theorem txStep_outq_suffix (p : Port) (x : Byte) (xs : List Byte) (hq : s.outq = .holding p x xs) :
    ∃ cs, cs <:+ x :: xs ∧ (txStep p x xs s).outq = OutQ.ofList p cs := by
  unfold txStep
  split
  · exact ⟨xs, List.suffix_cons x xs, emit_outq ..⟩
  · exact ⟨x :: xs, List.suffix_rfl, hq⟩
  · exact ⟨x :: xs, List.suffix_rfl, by rw [raiseEvent_outq, hq, OutQ.ofList_cons]⟩

/-- A step that serves no event leaves in `OUTQ` the end of what it held, for the same port. -/
theorem step_outq_suffix {p : Port} {bs : List Byte} (h : step s = .next t) (hn : ∀ q e, ¬ s.Serves q e)
    (hq : s.outq = OutQ.ofList p bs) : ∃ cs, cs <:+ bs ∧ t.outq = OutQ.ofList p cs := by
  have keeps (ht : t.outq = s.outq) : ∃ cs, cs <:+ bs ∧ t.outq = OutQ.ofList p cs :=
    ⟨bs, List.suffix_rfl, ht.trans hq⟩
  cases step_cases h with
  | offered q e ts _ eq => exact keeps (by rw [eq, offerMove, State.peerMove_frame])
  | accepted q c ts _ eq => exact keeps (by rw [eq, acceptMove, State.peerMove_frame])
  | timed v ts _ eq => exact keeps (by rw [eq]; rfl)
  | waited c _ _ _ eq => exact keeps (by rw [eq])
  | served q e hs => exact absurd hs (hn q e)
  | sent c q x xs _ _ outq eq =>
    have hlist : OutQ.ofList p bs = .holding q x xs := hq.symm.trans outq
    cases bs with
    | nil => cases hlist
    | cons b bs =>
      cases hlist
      rw [eq]
      exact txStep_outq_suffix _ _ _ outq

/-- A turn of the block takes the first byte of `OUTQ` where the port is ready. -/
theorem step_outq_sent {p q : Port} {x : Byte} {xs : List Byte} {ts : List Turn} (h : step s = .next t)
    (hst : s.status = .run) (ha : s.agenda = .block q :: ts) (hq : s.outq = .holding p x xs) (htx : (s.port p).tx = .ready) :
    t.outq = OutQ.ofList p xs := by
  rw [step_of_holding hst hq ha, txStep_ready (by rwa [State.port_withAgenda])] at h
  cases h
  exact emit_outq ..

end

/-! ## Along a run -/

/-- The environment gives the block a turn at which the port that output waits for, if there is output, is ready. -/
theorem EventuallyAccepts.turn {turns : Nat → Turn} {σ : Nat → State} (haccepts : EventuallyAccepts turns σ)
    (hmoves : BlockKeepsMoving turns) {k : Nat} {p : Port} {bs : List Byte} (hq : (σ k).outq = OutQ.ofList p bs) :
    ∃ j q, k ≤ j ∧ turns j = .block q ∧ (bs ≠ [] → ((σ j).port p).tx = .ready) := by
  cases bs with
  | nil =>
    obtain ⟨j, q, hkj, hturn⟩ := hmoves k
    exact ⟨j, q, hkj, hturn, fun h => absurd rfl h⟩
  | cons x xs =>
    obtain ⟨j, q, hkj, hturn, htx⟩ := haccepts k p x xs hq
    exact ⟨j, q, hkj, hturn, fun _ => htx⟩

section
variable {turns : Nat → Turn} {σ : Nat → State} (hrun : IsRun turns σ)
include hrun

theorem IsRun.cfg_eq {n k : Nat} (hk : n ≤ k) : (σ k).cfg = (σ n).cfg := by
  induction k, hk using Nat.le_induction with
  | base => rfl
  | succ k _ ih => exact (step_cfg (hrun k)).trans ih

/-- As long as the first event of a port is not served, it stays first. -/
theorem IsRun.head_stays {n : Nat} {p : Port} {e : RxEvent} (hhead : ((σ n).port p).rx.head? = some e)
    (hn : ∀ k, n ≤ k → ¬ ((σ k).underTurn (turns k)).Serves p e) {k : Nat} (hk : n ≤ k) :
    ((σ k).port p).rx.head? = some e := by
  induction k, hk using Nat.le_induction with
  | base => exact hhead
  | succ k hk ih =>
    have hnot (d : RxEvent) : ¬ ((σ k).underTurn (turns k)).Serves p d := by
      intro hs
      obtain rfl : e = d := hs.head_eq ih
      exact hn k hk hs
    obtain ⟨more, hmore⟩ := step_rx_of_not_served (hrun k) hnot
    rw [hmore, State.underTurn, State.port_withAgenda, List.head?_append, ih, Option.some_or]

/-- As long as no port is chosen, `OUTQ` holds the end of what it held. -/
theorem IsRun.outq_suffix {n : Nat} {p : Port} {bs : List Byte} (hq : (σ n).outq = OutQ.ofList p bs)
    (hn : ∀ k, n ≤ k → ∀ q, ¬ ChosenAt turns σ k q) {k : Nat} (hk : n ≤ k) :
    ∃ cs, cs <:+ bs ∧ (σ k).outq = OutQ.ofList p cs := by
  induction k, hk using Nat.le_induction with
  | base => exact ⟨bs, List.suffix_rfl, hq⟩
  | succ k hk ih =>
    obtain ⟨cs, hcs, hck⟩ := ih
    obtain ⟨ds, hds, hdk⟩ := step_outq_suffix (hrun k) (fun q e hs => hn k hk q ⟨e, hs⟩) hck
    exact ⟨ds, hds.trans hcs, hdk⟩

/-- A block that has its turn in a run is running: a stopped one would answer no next state. -/
theorem IsRun.status_run {k : Nat} {q : Port} (hturn : turns k = .block q) : (σ k).status = .run := by
  have hstep := hrun k
  rw [hturn] at hstep
  exact status_of_block_step (s := (σ k).underTurn (.block q)) hstep rfl

/-- Where the block has its turn, no output and a ready port, it chooses a port. -/
theorem IsRun.chooses {k : Nat} {p q : Port} (hturn : turns k = .block q) (hq : (σ k).outq = .empty)
    (hp : (σ k).readyPort p = true) : ∃ r, ChosenAt turns σ k r := by
  unfold ChosenAt
  rw [hturn]
  exact State.serves_of_ready (s := (σ k).underTurn (.block q)) ⟨hrun.status_run hturn, hq⟩ rfl hp

/-- At a turn of the block, a port that is ready takes the first byte of `OUTQ`. -/
theorem IsRun.outq_sent {k : Nat} {p q : Port} {x : Byte} {xs : List Byte} (hturn : turns k = .block q)
    (hq : (σ k).outq = .holding p x xs) (htx : ((σ k).port p).tx = .ready) : (σ (k + 1)).outq = OutQ.ofList p xs := by
  have ha : ((σ k).underTurn (turns k)).agenda = [.block q] := congrArg ([·]) hturn
  exact step_outq_sent (hrun k) (hrun.status_run hturn) ha hq (by rwa [State.underTurn, State.port_withAgenda])

/-- While a port is ready the block chooses again and again: by induction on the bytes that `OUTQ` holds, which go out one by
one at the turns of the block at which their port is ready. -/
theorem IsRun.eventually_chooses (hmoves : BlockKeepsMoving turns) (haccepts : EventuallyAccepts turns σ) {p : Port}
    {n k : Nat} (hready : ∀ k, n ≤ k → (σ k).readyPort p = true) (hk : n ≤ k) : ∃ j q, k ≤ j ∧ ChosenAt turns σ j q := by
  obtain ⟨d, bs, hq⟩ := (σ k).outq.exists_eq_ofList
  induction hm : bs.length using Nat.strong_induction_on generalizing k bs with
  | _ m ih =>
    subst hm
    by_contra hnone
    push Not at hnone
    obtain ⟨j, r, hkj, hturn, htx⟩ := haccepts.turn hmoves hq
    obtain ⟨cs, hcs, hj⟩ := hrun.outq_suffix hq (fun i hi q => hnone i q hi) hkj
    cases cs with
    | nil =>
      obtain ⟨q, hchosen⟩ := hrun.chooses hturn hj (hready j (hk.trans hkj))
      exact hnone j q hkj hchosen
    | cons y ys =>
      have hlt : ys.length < bs.length := hcs.length_le
      have hsent := hrun.outq_sent hturn hj (htx (List.ne_nil_of_length_pos (by omega)))
      obtain ⟨i, q, hi, hchosen⟩ := ih ys.length hlt (by omega) ys hsent rfl
      exact hnone i q (by omega) hchosen

end

/-- Settles O60: an event never served would stay first at its port, so the port would be ready for ever while the block chooses
again and again; fairness then chooses the port, and what is served is its first event. -/
theorem offeredEventIsEventuallyServed : Obligations.OfferedEventIsEventuallyServed := by
  unfold Obligations.OfferedEventIsEventuallyServed
  intro turns σ n p e hrun hmoves haccepts hfair hp hhead
  by_contra hnever
  push Not at hnever
  have hstays {k : Nat} (hk : n ≤ k) : ((σ k).port p).rx.head? = some e := hrun.head_stays hhead hnever hk
  have hready (k : Nat) (hk : n ≤ k) : (σ k).readyPort p = true := by
    rw [State.readyPort_iff, State.live_iff, hrun.cfg_eq hk]
    exact ⟨hp, List.ne_nil_of_mem (List.mem_of_head? (hstays hk))⟩
  obtain ⟨k, hk, d, hs⟩ := hfair p n hready fun k hk => hrun.eventually_chooses hmoves haccepts hready hk
  obtain rfl : e = d := hs.head_eq (hstays hk)
  exact hnever k hk hs

end Sys2Proof.Machine
end

section
/-! Stops and events (60_exceptions.md): a stopped block has no turn, a step records at most one event, and without a policy
`fault` no step enters FAULTED. -/

namespace Sys2Proof.Machine

section
variable {s t : State}

/-! ## A block that has stopped (R253, R254, R265) -/

theorem step_of_halted {c : Option Port} (hb : s.blockChoice = some c) (hst : s.status = .halted) :
    step s = .fault .halted := by
  rw [step_eq, fetch_of_blockChoice hb]
  simp only [blockStep, hst, Fetched.outcome]

theorem step_of_faulted {c : Option Port} (hb : s.blockChoice = some c) (hst : s.status = .faulted) :
    step s = .fault .faulted := by
  rw [step_eq, fetch_of_blockChoice hb]
  simp only [blockStep, hst, Fetched.outcome]

/-- A step from a stopped state is a turn of an environment agent, since a turn of the block answers no next state there. -/
theorem blockChoice_of_stopped_step (hst : s.status ≠ .run) (h : step s = .next t) : s.blockChoice = none := by
  cases hb : s.blockChoice with
  | none => rfl
  | some c => exact absurd (status_of_block_step h hb) hst

/-! ## The records a step adds to `EVLOG` (R31, R256) -/

theorem Service.evlog_eq_or_append (h : Service s t) : t.evlog = s.evlog ∨ ∃ e, t.evlog = s.evlog ++ [e] := by
  cases h with
  | nothing _ evlog => exact .inl evlog
  | event e _ evlog => exact .inr ⟨e, evlog⟩
  | fault e _ evlog => exact .inr ⟨e, evlog⟩
  | emits _ _ _ _ evlog => exact .inl evlog

/-- Draining records a write error or nothing. -/
theorem txStep_evlog_eq_or_append (p : Port) (x : Byte) (xs : List Byte) (s : State) :
    (txStep p x xs s).evlog = s.evlog ∨ ∃ e, (txStep p x xs s).evlog = s.evlog ++ [e] := by
  cases htx : (s.port p).tx with
  | ready => exact .inl (by simp [txStep_ready htx, transfer])
  | notReady => exact .inl (by rw [txStep_notReady x xs htx])
  | error => exact .inr ⟨.writeError p, by rw [txStep_error x xs htx, raiseEvent_evlog]⟩

/-! ## Entering FAULTED (R254) -/

theorem State.Good.congr (hs : s.Good) (status : t.status = s.status) : t.Good := by
  unfold State.Good
  rwa [status]

/-- Draining can halt the block, never fault it (R221, R253). -/
theorem txStep_good (p : Port) (x : Byte) (xs : List Byte) (hs : s.Good) : (txStep p x xs s).Good := by
  cases htx : (s.port p).tx with
  | ready => exact hs.congr (by simp [txStep_ready htx])
  | notReady => rwa [txStep_notReady x xs htx]
  | error => simp [txStep_error x xs htx, State.Good, raiseEvent]

section
variable (hignore : s.cfg.reservedPolicy = .ignore) (hdrop : s.cfg.unroutablePolicy = .drop)
include hignore hdrop

/-- Only an event under a policy `fault` changes `STATUS` in a service (R140, R224). -/
theorem Service.status_eq (h : Service s t) : t.status = s.status := by
  cases h with
  | nothing _ _ status => exact status
  | event _ _ _ status => exact status
  | emits _ _ _ _ _ status => exact status
  | fault _ _ _ _ _ policy =>
    obtain ⟨-, hfault⟩ | ⟨-, hfault⟩ := policy
    · cases hignore.symm.trans hfault
    · cases hdrop.symm.trans hfault

theorem step_good (hs : s.Good) (h : step s = .next t) : t.Good := by
  cases step_cases h with
  | offered p e ts _ eq => exact hs.congr (by rw [eq, offerMove, State.peerMove_frame])
  | accepted p c ts _ eq => exact hs.congr (by rw [eq, acceptMove, State.peerMove_frame])
  | timed v ts _ eq => exact hs.congr (by rw [eq]; rfl)
  | sent c p x xs _ _ _ eq =>
    rw [eq]
    exact txStep_good p x xs hs
  | waited c _ _ _ eq => exact hs.congr (by rw [eq])
  | served p e _ eq =>
    have hstatus : t.status = (s.consumed p).status := (serve_service eq).status_eq (by simpa) (by simpa)
    exact hs.congr (hstatus.trans (s.consumed_status p))

end
end

/-! ## The statements on stops and events -/

/-- Settles O45: the block's own step answers the fault of the stop it stands in. -/
theorem stoppedBlockTakesNoStep : Obligations.StoppedBlockTakesNoStep := by
  unfold Obligations.StoppedBlockTakesNoStep
  exact fun s c hb => ⟨step_of_halted hb, step_of_faulted hb⟩

/-- Settles O46, by induction on the run: each of its steps is an environment agent's, and `STATUS` stays as it was. -/
theorem stopIsNeverLeft : Obligations.StopIsNeverLeft := by
  unfold Obligations.StopIsNeverLeft
  intro s t hst h
  induction h with
  | refl => rfl
  | tail t u _ hstep ih =>
    have hstatus : t.status = s.status := by rw [ih]
    have henv : t.blockChoice = none := blockChoice_of_stopped_step (hstatus ▸ hst) hstep
    rw [step_env_frame hstep henv, ih]

/-- Settles O52: an agent's turn and a wait record nothing, draining and a service at most one event. -/
theorem stepRecordsAtMostOneEvent : Obligations.StepRecordsAtMostOneEvent := by
  unfold Obligations.StepRecordsAtMostOneEvent
  intro s t h
  cases step_cases h with
  | offered p e ts _ eq => exact .inl (by rw [eq, offerMove, State.peerMove_frame])
  | accepted p c ts _ eq => exact .inl (by rw [eq, acceptMove, State.peerMove_frame])
  | timed v ts _ eq => exact .inl (by rw [eq]; rfl)
  | sent c p x xs _ _ _ eq =>
    rw [eq]
    exact txStep_evlog_eq_or_append p x xs _
  | waited c _ _ _ eq => exact .inl (by rw [eq])
  | served p e _ eq =>
    have hlog := (serve_service eq).evlog_eq_or_append
    rwa [State.consumed_evlog] at hlog

/-- Settles O55, by induction on the run: the policies never change, and under them no step enters FAULTED. -/
theorem noRunFaultsUnderIgnoreAndDrop : Obligations.NoRunFaultsUnderIgnoreAndDrop := by
  unfold Obligations.NoRunFaultsUnderIgnoreAndDrop
  intro s t hignore hdrop hs h
  induction h with
  | refl => exact hs
  | tail t u hreach hstep ih =>
    have hcfg : t.cfg = s.cfg := configurationIsNeverWritten s t hreach
    exact step_good (hcfg ▸ hignore) (hcfg ▸ hdrop) ih hstep

end Sys2Proof.Machine
end

section
/-! Reset and the hazards (70_reset_and_hazards): the values that reset writes meet the invariant, and what a row may put into
`OUTQ`, from which the remote-frame and the routing hazard are read. -/

namespace Sys2Proof.Machine

/-! ## Reset (R280) -/

/-- Settles O59: both connections' receive paths are reset alike. -/
theorem resetGivesTheStatedValues : Obligations.ResetGivesTheStatedValues := by
  unfold Obligations.ResetGivesTheStatedValues
  refine ⟨fun p => ⟨rfl, rfl, rfl, fun c => ?_, rfl, rfl, rfl, rfl⟩, rfl⟩
  cases c <;> rfl

/-- What reset writes is enough for the invariant, whatever the unspecified bytes, `CAUSE`, the ports and the parameters
hold. -/
theorem State.Inv.of_resetValues {s : State} (mode : s.mode = .init) (cps : s.cps = .idle) (outq : s.outq = .empty)
    (status : s.status = .run) (evlog : s.evlog = []) : s.Inv := by
  obtain ⟨hcps, hlatch⟩ := State.ParserLegal.of_idle cps
  refine ⟨by simp [mode], hcps, hlatch, State.outqLegal_of_empty outq, (State.stopLegal_of_run status).mpr ?_⟩
  rw [State.noStopRecorded, evlog, List.all_nil]

theorem State.resetWith_inv (p : Params) : (State.resetWith p).Inv := .of_resetValues rfl rfl rfl rfl rfl

theorem State.applyReset_inv (p : Params) (s : State) : (s.applyReset p).Inv := .of_resetValues rfl rfl rfl rfl rfl

/-- Settles O54: the state after reset and a state that is reset both hold what reset writes. -/
theorem resetMeetsTheInvariant : Obligations.ResetMeetsTheInvariant := by
  unfold Obligations.ResetMeetsTheInvariant
  exact ⟨State.resetWith_inv Config.params, State.resetWith_inv, fun p s => ⟨s.applyReset_inv p, rfl⟩⟩

/-! ## What a row may put into `OUTQ` -/

/-- A Remote frame of an adapter leaves `OUTQ` alone, whether it is valid or not (R171, R194). -/
theorem exec_adpRemote_outq {c : Conn} {ops : AdapterOperands} {s t : State} (h : exec (.adpRemote c ops) s = .next t) :
    t.outq = s.outq := by
  cases h
  cases hdec : decodeRemote c ops with
  | error e => rw [deliver_error, setAcnt_eq, State.setAdapterRx_outq]
  | ok f =>
    obtain ⟨rfl, -⟩ := newRemote_ok hdec
    rw [deliver_rejected _ _ _ (telemetry_remote ..), raiseEvent_outq, setAcnt_eq, State.setAdapterRx_outq]

/-- Routing leaves `OUTQ` alone, or loads the frame's bytes for its connection, which is present (R222 to R224). -/
theorem route_outq (f : Frame) (s : State) : (route f s).outq = s.outq ∨
    ¬ (routeTo s.cfg.routeMap f.bus = .a1 ∧ s.cfg.numBuses = .one) ∧
      (route f s).outq = OutQ.ofList (.adapter (routeTo s.cfg.routeMap f.bus)) (adapterEncode f) := by
  by_cases h : routeTo s.cfg.routeMap f.bus = .a1 ∧ s.cfg.numBuses = .one
  · left
    rw [route_absent f s h.1 h.2, unroutable]
    split <;> exact raiseEvent_outq ..
  · right
    rw [route_present f s h]
    exact ⟨h, emit_outq ..⟩

/-- A BuildCanFrame or an alias of it leaves `OUTQ` alone, or loads it with a valid Data frame for a connection that is
present (R127, R128, R222). -/
theorem exec_buildOps_outq {i : Instr} {s t : State} (hb : (buildOps i).isSome) (h : exec i s = .next t) :
    t.outq = s.outq ∨ ∃ f : Frame, f.valid = true ∧ f.rtr = false ∧
      ¬ (routeTo s.cfg.routeMap f.bus = .a1 ∧ s.cfg.numBuses = .one) ∧
      t.outq = OutQ.ofList (.adapter (routeTo s.cfg.routeMap f.bus)) (adapterEncode f) := by
  obtain ⟨ops, hops⟩ := Option.isSome_iff_exists.mp hb
  rw [exec_of_buildOps hops] at h
  cases h
  rw [buildComplete]
  cases hnew : newData ops.bus (idOfRaw ops.raw) (extOfRaw ops.raw) ops.data with
  | error e => exact .inl (raiseEvent_outq ..)
  | ok f =>
    obtain ⟨rfl, hlen, hid⟩ := newData_ok hnew
    refine (route_outq _ { s with cps := .idle }).imp_right fun ⟨hpresent, houtq⟩ => ⟨_, ?_, rfl, hpresent, houtq⟩
    exact (Frame.valid_iff _).mpr ⟨BitVec.not_lt.mp hid, hlen⟩

/-- Bit 6 of a valid frame's first byte is its remote-frame flag (R80, R196). -/
theorem getLsbD_six_of_adapterEncode {f : Frame} {x : Byte} {xs : List Byte} (hf : f.valid = true)
    (h : adapterEncode f = x :: xs) : x.getLsbD 6 = f.rtr := by
  rw [adapterEncode_eq hf] at h
  cases h
  obtain ⟨-, hrtr, -⟩ := adapterByte0_fields f.rtr f.fields
  exact hrtr

theorem OutQ.ofList_eq_holding_iff {p q : Port} {bs : List Byte} {x : Byte} {xs : List Byte} :
    OutQ.ofList p bs = .holding q x xs ↔ p = q ∧ bs = x :: xs := by
  cases bs <;> simp [OutQ.ofList]

/-- Settles O36: a Remote frame leaves `OUTQ` empty, and what a BuildCanFrame loads is a Data frame. -/
theorem remoteFramesCrossInNeitherDirection : Obligations.RemoteFramesCrossInNeitherDirection := by
  unfold Obligations.RemoteFramesCrossInNeitherDirection
  refine ⟨fun c ops s t hs h => (exec_adpRemote_outq h).trans hs.2, fun i s t p x xs hs hb h hq => ?_⟩
  obtain houtq | ⟨f, hvalid, hdata, -, houtq⟩ := exec_buildOps_outq hb h
  · simp [houtq, hs.2] at hq
  · obtain ⟨-, hbytes⟩ := OutQ.ofList_eq_holding_iff.mp (houtq.symm.trans hq)
    exact (getLsbD_six_of_adapterEncode hvalid hbytes).trans hdata

/-- `ROUTE_AS_WRITTEN` sends every bus to A1 (R10). -/
theorem routeTo_asWritten (bus : BitVec 2) : routeTo .asWritten bus = .a1 := by
  revert bus
  decide

/-- Settles O37: the connection of every frame is A1, which is absent with one bus. -/
theorem routedAsWrittenNothingReachesA0 : Obligations.RoutedAsWrittenNothingReachesA0 := by
  unfold Obligations.RoutedAsWrittenNothingReachesA0
  intro i s t hs hb hmap h
  obtain houtq | ⟨f, -, -, hpresent, houtq⟩ := exec_buildOps_outq hb h
  · simp [houtq, hs.2]
  · have hdest : routeTo s.cfg.routeMap f.bus = .a1 := hmap ▸ routeTo_asWritten f.bus
    rw [hdest] at houtq hpresent
    refine ⟨fun x xs hq => ?_, fun hone => absurd ⟨rfl, hone⟩ hpresent⟩
    obtain ⟨hport, -⟩ := OutQ.ofList_eq_holding_iff.mp (houtq.symm.trans hq)
    cases hport

end Sys2Proof.Machine
end
